-- ==== Sys2Proof/Word.lean ====
section
/-! DEFINITION. The bit-vector types of the µPD17103L (spec/00_scope.md R8). -/

namespace Sys2Proof

/-- One data-memory cell, "1ニブル" (R8, R62). -/
abbrev Nibble := BitVec 4

/-- One program-memory word, which is one instruction (R8, R100). -/
abbrev Word := BitVec 16

/-- A program-memory address, the width of the program counter (R8, R21). -/
abbrev PAddr := BitVec 9

/-- A data-memory address: row 3 bits, column 4 bits (R8, R62). -/
abbrev DAddr := BitVec 7

end Sys2Proof
end

