-- ==== Sys2Proof/Syntax.lean ====
section
/-! DEFINITION. The instructions of the µPD17103L: one constructor per row of spec/opcode_table.json, which is
spec/30_encoding.md R106 and R107. Operands are those of R104, destination first (R105). -/

namespace Sys2Proof

inductive Instr where
  /-- ADD r, m (R135) -/
  | addRM (r : Nibble) (m : DAddr)
  /-- ADD m, #n4 (R136) -/
  | addMI (m : DAddr) (n4 : Nibble)
  /-- ADDC r, m (R137) -/
  | addcRM (r : Nibble) (m : DAddr)
  /-- ADDC m, #n4 (R138) -/
  | addcMI (m : DAddr) (n4 : Nibble)
  /-- SUB r, m (R139) -/
  | subRM (r : Nibble) (m : DAddr)
  /-- SUB m, #n4 (R140) -/
  | subMI (m : DAddr) (n4 : Nibble)
  /-- SUBC r, m (R141) -/
  | subcRM (r : Nibble) (m : DAddr)
  /-- SUBC m, #n4 (R142) -/
  | subcMI (m : DAddr) (n4 : Nibble)
  /-- OR r, m (R151) -/
  | orRM (r : Nibble) (m : DAddr)
  /-- OR m, #n4 (R152) -/
  | orMI (m : DAddr) (n4 : Nibble)
  /-- AND r, m (R153) -/
  | andRM (r : Nibble) (m : DAddr)
  /-- AND m, #n4 (R154) -/
  | andMI (m : DAddr) (n4 : Nibble)
  /-- XOR r, m (R155) -/
  | xorRM (r : Nibble) (m : DAddr)
  /-- XOR m, #n4 (R156) -/
  | xorMI (m : DAddr) (n4 : Nibble)
  /-- SKT m, #n (R161) -/
  | skt (m : DAddr) (n : Nibble)
  /-- SKF m, #n (R162) -/
  | skf (m : DAddr) (n : Nibble)
  /-- SKE m, #n4 (R165) -/
  | ske (m : DAddr) (n4 : Nibble)
  /-- SKNE m, #n4 (R166) -/
  | skne (m : DAddr) (n4 : Nibble)
  /-- SKGE m, #n4 (R167) -/
  | skge (m : DAddr) (n4 : Nibble)
  /-- SKLT m, #n4 (R168) -/
  | sklt (m : DAddr) (n4 : Nibble)
  /-- RORC r (R170) -/
  | rorc (r : Nibble)
  /-- LD r, m (R173) -/
  | ld (r : Nibble) (m : DAddr)
  /-- ST m, r (R174) -/
  | st (m : DAddr) (r : Nibble)
  /-- MOV m, #n4 (R175) -/
  | mov (m : DAddr) (n4 : Nibble)
  /-- BR addr: 11 bits, the upper 2 must be 0 (R181, R109) -/
  | br (addr : BitVec 11)
  /-- CALL addr: 11 bits, the upper 2 must be 0 (R182, R109) -/
  | call (addr : BitVec 11)
  /-- RET (R183) -/
  | ret
  /-- RETSK (R184) -/
  | retsk
  /-- STOP s: 4 bits, the upper 3 must be 0 (R192, R110) -/
  | stop (s : Nibble)
  /-- HALT h: 4 bits, the upper 3 must be 0 (R191, R110) -/
  | halt (h : Nibble)
  /-- NOP (R190) -/
  | nop
  deriving DecidableEq, Repr

end Sys2Proof
end

