-- ==== Sys2Proof/WellFormed.lean ====
section
/-! DEFINITION. Which instruction terms are instructions of the machine: the operand bits the source orders to be 0
(spec/30_encoding.md R109, R110). Every other operand takes every value of its field (R104). -/

namespace Sys2Proof

/-- R109: "the upper 2 bits of addr are fixed at 0". -/
def addrOk (addr : BitVec 11) : Bool := addr.extractLsb' 9 2 == 0

/-- R110: the upper three operand bits of HALT and STOP are 0. -/
def standbyOk (x : Nibble) : Bool := x.extractLsb' 1 3 == 0

def Instr.wf : Instr → Bool
  | .br addr | .call addr => addrOk addr
  | .stop s => standbyOk s
  | .halt h => standbyOk h
  | .addRM _ _ | .addMI _ _ | .addcRM _ _ | .addcMI _ _ | .subRM _ _ | .subMI _ _ | .subcRM _ _ | .subcMI _ _
  | .orRM _ _ | .orMI _ _ | .andRM _ _ | .andMI _ _ | .xorRM _ _ | .xorMI _ _ | .skt _ _ | .skf _ _ | .ske _ _
  | .skne _ _ | .skge _ _ | .sklt _ _ | .rorc _ | .ld _ _ | .st _ _ | .mov _ _ | .ret | .retsk | .nop => true

end Sys2Proof
end

