-- ==== Sys2Proof/Decode.lean ====
section
/-! DEFINITION. The decoder of spec/30_encoding.md R112, total on 16-bit words and rejecting by name, and the encoder,
written from R103, R106 and R107. -/

namespace Sys2Proof

/-- Why a word is no instruction (R108 to R110); each carries the word. -/
inductive DecodeError where
  /-- One of the six unused operation codes (R108 a). -/
  | unusedOpcode (w : Word)
  /-- A word of operation code 00111 that is no row of R107 (R108 b). -/
  | undefinedSystemWord (w : Word)
  /-- HALT or STOP with operand bits 3-1 not 000 (R110). -/
  | standbyOperand (w : Word)
  /-- BR or CALL with bits 10-9 not 00 (R109). -/
  | branchHighBits (w : Word)
  deriving DecidableEq, Repr

/-- b15-b11, the operation code (R101). -/
def opField (w : Word) : BitVec 5 := w.extractLsb' 11 5

/-- m = word[10:4] (R104). -/
def mField (w : Word) : DAddr := w.extractLsb' 4 7

/-- r, n4, n, s, h = word[3:0] (R104). -/
def lowField (w : Word) : Nibble := w.extractLsb' 0 4

/-- addr = word[10:0] (R104). -/
def addrField (w : Word) : BitVec 11 := w.extractLsb' 0 11

/-- HALT and STOP: the operand if its upper three bits are 0 (R110). -/
def decodeStandby (w : Word) (mk : Nibble → Instr) : Except DecodeError Instr :=
  if standbyOk (lowField w) then .ok (mk (lowField w)) else .error (.standbyOperand w)

/-- BR and CALL: the operand if its upper two bits are 0 (R109). -/
def decodeBranch (w : Word) (mk : BitVec 11 → Instr) : Except DecodeError Instr :=
  if addrOk (addrField w) then .ok (mk (addrField w)) else .error (.branchHighBits w)

/-- Operation code 00111: the six rows of R107, told apart by b10-b4. -/
def decodeSystem (w : Word) : Except DecodeError Instr :=
  match (mField w).toNat with
  | 0x07 => .ok (.rorc (lowField w))
  | 0x0E => if lowField w = 0 then .ok .ret else .error (.undefinedSystemWord w)
  | 0x1E => if lowField w = 0 then .ok .retsk else .error (.undefinedSystemWord w)
  | 0x2F => decodeStandby w .stop
  | 0x3F => decodeStandby w .halt
  | 0x4F => if lowField w = 0 then .ok .nop else .error (.undefinedSystemWord w)
  | _ => .error (.undefinedSystemWord w)

/-- The decoder of R112: the map of R106 by operation code. -/
def decode (w : Word) : Except DecodeError Instr :=
  let m := mField w
  let low := lowField w
  match (opField w).toNat with
  | 0b00000 => .ok (.addRM low m)
  | 0b00001 => .ok (.subRM low m)
  | 0b00010 => .ok (.addcRM low m)
  | 0b00011 => .ok (.subcRM low m)
  | 0b00100 => .ok (.andRM low m)
  | 0b00101 => .ok (.xorRM low m)
  | 0b00110 => .ok (.orRM low m)
  | 0b00111 => decodeSystem w
  | 0b01000 => .ok (.ld low m)
  | 0b01001 => .ok (.ske m low)
  | 0b01011 => .ok (.skne m low)
  | 0b01100 => decodeBranch w .br
  | 0b10000 => .ok (.addMI m low)
  | 0b10001 => .ok (.subMI m low)
  | 0b10010 => .ok (.addcMI m low)
  | 0b10011 => .ok (.subcMI m low)
  | 0b10100 => .ok (.andMI m low)
  | 0b10101 => .ok (.xorMI m low)
  | 0b10110 => .ok (.orMI m low)
  | 0b11000 => .ok (.st m low)
  | 0b11001 => .ok (.skge m low)
  | 0b11011 => .ok (.sklt m low)
  | 0b11100 => decodeBranch w .call
  | 0b11101 => .ok (.mov m low)
  | 0b11110 => .ok (.skt m low)
  | 0b11111 => .ok (.skf m low)
  | _ => .error (.unusedOpcode w)

/-- Formats RM, MI and S of R103: operation code, 7 bits, 4 bits. -/
def packOp (op : BitVec 5) (mid : BitVec 7) (low : BitVec 4) : Word := op ++ mid ++ low

/-- Format A of R103: operation code, 11 bits. -/
def packAddr (op : BitVec 5) (addr : BitVec 11) : Word := op ++ addr

/-- The word of an instruction, from the rows of R106 and R107. -/
def encode : Instr → Word
  | .addRM r m => packOp 0b00000 m r
  | .subRM r m => packOp 0b00001 m r
  | .addcRM r m => packOp 0b00010 m r
  | .subcRM r m => packOp 0b00011 m r
  | .andRM r m => packOp 0b00100 m r
  | .xorRM r m => packOp 0b00101 m r
  | .orRM r m => packOp 0b00110 m r
  | .rorc r => packOp 0b00111 0b0000111 r
  | .ret => packOp 0b00111 0b0001110 0b0000
  | .retsk => packOp 0b00111 0b0011110 0b0000
  | .stop s => packOp 0b00111 0b0101111 s
  | .halt h => packOp 0b00111 0b0111111 h
  | .nop => packOp 0b00111 0b1001111 0b0000
  | .ld r m => packOp 0b01000 m r
  | .ske m n4 => packOp 0b01001 m n4
  | .skne m n4 => packOp 0b01011 m n4
  | .br addr => packAddr 0b01100 addr
  | .addMI m n4 => packOp 0b10000 m n4
  | .subMI m n4 => packOp 0b10001 m n4
  | .addcMI m n4 => packOp 0b10010 m n4
  | .subcMI m n4 => packOp 0b10011 m n4
  | .andMI m n4 => packOp 0b10100 m n4
  | .xorMI m n4 => packOp 0b10101 m n4
  | .orMI m n4 => packOp 0b10110 m n4
  | .st m r => packOp 0b11000 m r
  | .skge m n4 => packOp 0b11001 m n4
  | .sklt m n4 => packOp 0b11011 m n4
  | .call addr => packAddr 0b11100 addr
  | .mov m n4 => packOp 0b11101 m n4
  | .skt m n => packOp 0b11110 m n
  | .skf m n => packOp 0b11111 m n

/-- The 16-bit word of a number of `nbits` bits; the bits above `nbits` are 0. Every row of the opcode table is one
16-bit word (R100), numbered as R13 numbers its bits. -/
def wordOfBits (nbits w : Nat) : Word := BitVec.ofNat 16 (w % 2 ^ nbits)

/-- What the decoder reads from the instruction whose bits are `w`. -/
def decodeTableWord (nbits w : Nat) : Option Instr := (decode (wordOfBits nbits w)).toOption

end Sys2Proof
end

