-- ==== Sys2Proof/Config.lean ====
section
/-! DEFINITION. What the mask, the board and the environment fix (spec/00_scope.md R9), the parameters the spec leaves
open (spec/92_eei_decisions.md), and the free values, which are constants without a body. -/

namespace Sys2Proof

/-- The 11 port pins (60_exceptions.md R235). `p0b0` is also RLSHALT and `p0b1` RLSSTOP (R223). -/
inductive Pin where
  | p0b0 | p0b1 | p0b2
  | p0c0 | p0c1 | p0c2 | p0c3
  | p0d0 | p0d1 | p0d2 | p0d3
  deriving DecidableEq, Repr

/-- What the external circuit does to one pin during one step (20_memory.md R72, D14; log 8). -/
inductive Ext where
  /-- Nothing outside drives the pin. -/
  | undriven
  /-- The outside applies a level that gives way to a push-pull output of the chip. -/
  | driven (level : Bool)
  /-- The outside applies a level that overpowers a push-pull output of the chip (R72: "unless the external circuit
  overpowers the driver"). -/
  | forced (level : Bool)
  deriving DecidableEq, Repr

/-- One sample of the environment: what it does to the 11 port pins and to RESET during one step (R72, R235, D18). -/
structure PinSample where
  p0b0 : Ext
  p0b1 : Ext
  p0b2 : Ext
  p0c0 : Ext
  p0c1 : Ext
  p0c2 : Ext
  p0c3 : Ext
  p0d0 : Ext
  p0d1 : Ext
  p0d2 : Ext
  p0d3 : Ext
  reset : Ext
  deriving DecidableEq, Repr

/-- `UNMAPPED_DM` (20_memory.md R65, D9): what an access to 10H-70H does. -/
inductive UnmappedDm where
  /-- The spec's default: the model fault `UnmappedDataMemory`. -/
  | fault
  | readZeroWriteIgnored
  deriving DecidableEq, Repr

/-- `UNDEFINED_READ` (10_state.md R26, D15): what reading a RAM nibble does that nothing has written since a reset of
kind A. -/
inductive UndefinedRead where
  /-- The spec's default: the model fault `UndefinedRead`. -/
  | fault
  /-- The nibble holds an arbitrary value fixed at the reset. -/
  | anyValue
  deriving DecidableEq, Repr

/-- `SKT_CMP_ORDER` (42_judge_compare.md R163, D12): which value of CMP a test of the CMP bit itself sees. -/
inductive SktCmpOrder where
  | readThenClear
  | clearThenRead
  /-- The spec's default value of the parameter: the model fault `UnspecifiedCmpTest`. -/
  | fault
  /-- DESIGN CHOICE (log 12): one of the two orders, not known which; `Config.sktReadsOldCmp` decides. -/
  | either
  deriving DecidableEq, Repr

/-- The named parameters of one machine (R9 and the parameters left open in 92_eei_decisions.md). No step changes them. -/
structure Params where
  /-- `OPT_P0B0_PULLUP` -/
  pullUpP0B0 : Bool
  /-- `OPT_P0B1_PULLUP` -/
  pullUpP0B1 : Bool
  /-- `OPT_P0B2_PULLUP` -/
  pullUpP0B2 : Bool
  /-- `OPT_RESET_PULLUP` -/
  pullUpReset : Bool
  unmappedDm : UnmappedDm
  undefinedRead : UndefinedRead
  sktCmpOrder : SktCmpOrder
  deriving DecidableEq, Repr

/-- FREE VALUE (log 7): the level read at an undriven pin without pull-up during step `time` (R72: "An undriven CMOS
input has no defined level"; 93_implementation_defined.md row 16, "any value per read"). -/
opaque Config.floatingLevel (time : Nat) (p : Pin) : Bool

/-- FREE VALUE (log 7): the level at an undriven RESET pin without pull-up during step `time`. -/
opaque Config.floatingReset (time : Nat) : Bool

/-- FREE VALUE (log 6, log 7): nibble `i` of RAM after a reset of kind A in step `time` (10_state.md R26, R42). -/
opaque Config.undefinedRam (time : Nat) (i : Nat) : Nibble

/-- FREE VALUE (log 4, log 7): the latch of port 0B after a reset of kind A in step `time` (R42). -/
opaque Config.undefinedLatchB (time : Nat) : BitVec 3

/-- FREE VALUE (log 4, log 7): the latch of port 0C after a reset of kind A in step `time` (R42). -/
opaque Config.undefinedLatchC (time : Nat) : Nibble

/-- FREE VALUE (log 4, log 7): the latch of port 0D after a reset of kind A in step `time` (R42). -/
opaque Config.undefinedLatchD (time : Nat) : Nibble

/-- FREE VALUE (log 5, log 7): ASR after a reset or STOP 0000B in step `time` (10_state.md R29, D4). -/
opaque Config.unspecifiedAsr (time : Nat) : PAddr

/-- FREE VALUE (log 12): whether SKT and SKF read CMP before they clear it, where `SktCmpOrder.either` leaves it open
(R163). One constant: the order is a property of the chip. -/
opaque Config.sktReadsOldCmp : Bool

end Sys2Proof
end

