-- ==== Sys2Proof/Machine/State.lean ====
section
/-! DEFINITION. The state of the machine (spec/10_state.md R20), why a step can stop, and the state after reset
(R42, 70_reset_and_hazards.md R261, R262). INVENTORY.md lists every field with its rule. -/

namespace Sys2Proof.Machine

/-- Why the machine stops: the model faults of 60_exceptions.md R222, which are no hardware events. All are safe: the
source gives the situation no meaning, and no claim is provable past one (D23). -/
inductive Fault where
  /-- `IllegalEncoding(A, w)`: the step, for a fetched word that is no instruction (R108 to R110), with no word where the
  ROM defines none at `a` (D16); and BR, CALL, HALT, STOP for an operand the decoder never gives them (R181, R191). Safe. -/
  | illegalEncoding (a : PAddr) (w : Option Word)
  /-- `UnmappedDataMemory(a)`: an access to data memory 10H-70H (R65, D9). Safe. -/
  | unmappedDataMemory (a : DAddr)
  /-- `UndefinedRead(a)`: a read of a RAM nibble that nothing has written since a reset of kind A, where `UNDEFINED_READ`
  is `fault` (R26, D15; log 6). Safe. -/
  | undefinedRead (a : DAddr)
  /-- `StackOverflow(A)`: CALL with depth = 1 (R182, D3). Safe. -/
  | stackOverflow (a : PAddr)
  /-- `StackUnderflow(A)`: RET or RETSK with depth = 0 (R183, R184, D3). Safe. -/
  | stackUnderflow (a : PAddr)
  /-- `UnspecifiedCmpTest(A)`: SKT or SKF on the CMP bit where `SKT_CMP_ORDER` is `fault` (R163, D12). Safe. -/
  | unspecifiedCmpTest (a : PAddr)
  deriving DecidableEq, Repr

/-- What the model has no meaning for. -/
inductive Refusal where
  /-- Raised by `exec` for an instruction that has no meaning yet; safe. No arm raises it now. -/
  | notModelled (mnemonic : String)
  deriving DecidableEq, Repr

/-- The direction of a whole port (10_state.md R38). -/
inductive PortMode where
  | input | output
  deriving DecidableEq, Repr

/-- The run mode (10_state.md R20, R41; 60_exceptions.md R227). -/
inductive RunMode where
  | operating
  /-- HALT mode, released by RESET, and by P0B0 high if `byP0B0` (R229). -/
  | halt (byP0B0 : Bool)
  /-- STOP mode, released by RESET, and by P0B1 high if `byP0B1` (R231). -/
  | stop (byP0B1 : Bool)
  /-- RESET is low (R227, row "reset"). -/
  | reset
  /-- The wait of 8 clocks after RESET returns high or after a STOP release (R233). -/
  | wait
  deriving DecidableEq, Repr

/-- Program memory: (word address, word) pairs in one canonical form, `Rom.wf`; what is not listed has no value (log 1). -/
abbrev Rom := List (Nat × Word)

structure State where
  /-- Program counter (R21). -/
  pc : PAddr
  /-- Address stack register, the one stack level (R27, R28). -/
  asr : PAddr
  /-- How many return addresses the stack holds (R28). -/
  depth : Fin 2
  /-- Data memory 00H-0FH, which is general registers 0-15 (R24, R25). -/
  ram : Vector Nibble 16
  /-- Which RAM nibbles have been written since the last reset of kind A (R26, R64, R222). No instruction reads it; with
  `UNDEFINED_READ` = `fault` it decides whether a nibble can be read (log 6). -/
  ramWritten : Vector Bool 16
  /-- BCD flag (R34). -/
  bcd : Bool
  /-- Compare flag (R33). -/
  cmp : Bool
  /-- Carry flag (R32). -/
  cy : Bool
  /-- Zero flag (R31). -/
  z : Bool
  /-- Output latch of port 0B, 3 bits (R38, R68). -/
  latchB : BitVec 3
  /-- Output latch of port 0C (R38, R69). -/
  latchC : Nibble
  /-- Output latch of port 0D (R38, R69). -/
  latchD : Nibble
  modeB : PortMode
  modeC : PortMode
  modeD : PortMode
  /-- The next instruction is to be executed as NOP (R39). -/
  skipPending : Bool
  run : RunMode
  /-- The mask ROM (R9, R61). No step changes it. -/
  rom : Rom
  /-- Mask options and open parameters (R9, D9, D12). No step changes them. -/
  params : Params
  /-- The model's own: what the environment does to the pins in the next step (R72, log 8). -/
  pins : PinSample
  /-- The model's own: the samples of the steps after that; when it is empty the last sample stays (log 8). -/
  inputs : List PinSample
  /-- The model's own: the counter that the free values of Config are applied to (log 7). -/
  time : Nat
  deriving DecidableEq, Repr

/-- What a step answers. -/
abbrev Out := Host.Outcome State Fault Refusal

/-- DESIGN CHOICE (log 9): nothing drives a port pin; RESET is driven high. -/
def quietPins : PinSample :=
  { p0b0 := .undriven, p0b1 := .undriven, p0b2 := .undriven
    p0c0 := .undriven, p0c1 := .undriven, p0c2 := .undriven, p0c3 := .undriven
    p0d0 := .undriven, p0d1 := .undriven, p0d2 := .undriven, p0d3 := .undriven
    reset := .driven true }

/-- DESIGN CHOICE (log 10 the mask options, log 12 the order); UNMAPPED_DM at the spec's default (D9, log 11);
UNDEFINED_READ at the spec's other value (D15, log 6). -/
def defaultParams : Params :=
  { pullUpP0B0 := false, pullUpP0B1 := false, pullUpP0B2 := false, pullUpReset := false
    unmappedDm := .fault, undefinedRead := .anyValue, sktCmpOrder := .either }

/-- The end of the first reset after power-up, `reset(A)` (R42, R261, R262). `pc`, `depth`, flags, modes, `skipPending`
and `run` are the spec's; `ram`, the latches and `asr`, undefined there, are DESIGN CHOICES (logs 3, 4, 5). -/
def State.reset : State :=
  { pc := 0, asr := 0, depth := 0
    ram := Vector.replicate 16 0, ramWritten := Vector.replicate 16 false
    bcd := false, cmp := false, cy := false, z := false
    latchB := 0, latchC := 0, latchD := 0
    modeB := .input, modeC := .input, modeD := .input
    skipPending := false, run := .operating
    rom := [], params := defaultParams
    pins := quietPins, inputs := [], time := 0 }

end Sys2Proof.Machine
end

