-- ==== Sys2Proof/Machine/Ops.lean ====
section
/-! DEFINITION. The named operations over the state: its updates, the ROM, the pins, data memory (spec/20_memory.md),
the skip, reset (spec/70_reset_and_hazards.md R261) and the standby modes (spec/60_exceptions.md R227 to R233).
The machine has no exception entry and no return from one (R220, R225, R226); reset is its only entry sequence. -/

namespace Sys2Proof.Machine

/-! ## Updates -/

def State.setPc (s : State) (a : PAddr) : State := { s with pc := a }

/-- `pc <- (A + 1) mod 512` (R22, R23, D1). -/
def State.advancePc (s : State) : State := s.setPc (s.pc + 1)

def State.setFlags (s : State) (bcd cmp cy z : Bool) : State := { s with bcd := bcd, cmp := cmp, cy := cy, z := z }

/-- A write of a RAM nibble, after which it counts as written (R64). -/
def State.setRam (s : State) (i : Fin 16) (v : Nibble) : State :=
  { s with ram := s.ram.set i v, ramWritten := s.ramWritten.set i true }

/-- A write to the port register sets the latch and makes the whole port an output port (R67). -/
def State.drivePortB (s : State) (v : BitVec 3) : State := { s with latchB := v, modeB := .output }

def State.drivePortC (s : State) (v : Nibble) : State := { s with latchC := v, modeC := .output }

def State.drivePortD (s : State) (v : Nibble) : State := { s with latchD := v, modeD := .output }

def State.setSkip (s : State) (b : Bool) : State := { s with skipPending := b }

def State.setRun (s : State) (m : RunMode) : State := { s with run := m }

def State.setStack (s : State) (asr : PAddr) (depth : Fin 2) : State := { s with asr := asr, depth := depth }

/-- What a reset and STOP 0000B have in common: pc, flags, port modes, stack and skip flag (R261, R192, R29, D4, D5). -/
def State.initialise (s : State) : State :=
  { s with
    pc := 0, bcd := false, cmp := false, cy := false, z := false
    modeB := .input, modeC := .input, modeD := .input
    asr := Config.unspecifiedAsr s.time, depth := 0, skipPending := false }

/-- RAM and output latches become undefined (R42, reset A): no nibble counts as written. -/
def State.loseData (s : State) : State :=
  { s with
    ram := Vector.ofFn fun i => Config.undefinedRam s.time i.val
    ramWritten := Vector.replicate 16 false
    latchB := Config.undefinedLatchB s.time
    latchC := Config.undefinedLatchC s.time
    latchD := Config.undefinedLatchD s.time }

def State.setRom (s : State) (rom : Rom) : State := { s with rom := rom }

def State.setPins (s : State) (p : PinSample) : State := { s with pins := p }

/-- One step of time: the next sample of the pins comes into force (D18; log 8). -/
def State.tick (s : State) : State :=
  { s with pins := s.inputs.headD s.pins, inputs := s.inputs.tail, time := s.time + 1 }

/-! ## Program memory -/

/-- Addresses strictly rising, from `lo` on, and below 512 (R61). -/
def Rom.wfFrom (lo : Nat) : Rom → Bool
  | [] => true
  | (a, _) :: rest => lo ≤ a && a < 512 && Rom.wfFrom (a + 1) rest

/-- The canonical form: strictly rising addresses below 512. An unlisted address has no value, so no entry can equal
what an unlisted address reads as. -/
def Rom.wf (m : Rom) : Bool := Rom.wfFrom 0 m

/-- The word at an address; none where the ROM defines none (R82, D16). -/
def Rom.read : Rom → Nat → Option Word
  | [], _ => none
  | (b, w) :: rest, a => if b = a then some w else Rom.read rest a

/-- Puts a word at an address, keeping the canonical form. No instruction does this (R82). -/
def Rom.write : Rom → Nat → Word → Rom
  | [], a, w => [(a, w)]
  | (b, v) :: rest, a, w =>
    if a < b then (a, w) :: (b, v) :: rest
    else if a = b then (a, w) :: rest
    else (b, v) :: Rom.write rest a w

/-! ## Pins -/

/-- What the chip itself does to a port pin. -/
inductive ChipDrive where
  /-- High impedance. -/
  | released
  /-- High impedance, with the built-in pull-up resistor (R68, mask option). -/
  | pulledUp
  /-- N-channel open-drain output, on (R68). -/
  | openDrainLow
  /-- CMOS push-pull output (R69). -/
  | pushPull (level : Bool)
  deriving DecidableEq, Repr

/-- R68: in output mode a latch bit 0 drives the pin low; otherwise the pin is released, or pulled up. -/
def openDrain (mode : PortMode) (bit pullUp : Bool) : ChipDrive :=
  if mode = .output ∧ bit = false then .openDrainLow else if pullUp then .pulledUp else .released

/-- R69: released in input mode, driven to the latch bit in output mode. -/
def pushPull (mode : PortMode) (bit : Bool) : ChipDrive :=
  match mode with
  | .input => .released
  | .output => .pushPull bit

def chipDrive (s : State) : Pin → ChipDrive
  | .p0b0 => openDrain s.modeB (s.latchB.getLsbD 0) s.params.pullUpP0B0
  | .p0b1 => openDrain s.modeB (s.latchB.getLsbD 1) s.params.pullUpP0B1
  | .p0b2 => openDrain s.modeB (s.latchB.getLsbD 2) s.params.pullUpP0B2
  | .p0c0 => pushPull s.modeC (s.latchC.getLsbD 0)
  | .p0c1 => pushPull s.modeC (s.latchC.getLsbD 1)
  | .p0c2 => pushPull s.modeC (s.latchC.getLsbD 2)
  | .p0c3 => pushPull s.modeC (s.latchC.getLsbD 3)
  | .p0d0 => pushPull s.modeD (s.latchD.getLsbD 0)
  | .p0d1 => pushPull s.modeD (s.latchD.getLsbD 1)
  | .p0d2 => pushPull s.modeD (s.latchD.getLsbD 2)
  | .p0d3 => pushPull s.modeD (s.latchD.getLsbD 3)

/-- What the environment does to a port pin in this step. -/
def extDrive (p : PinSample) : Pin → Ext
  | .p0b0 => p.p0b0
  | .p0b1 => p.p0b1
  | .p0b2 => p.p0b2
  | .p0c0 => p.p0c0
  | .p0c1 => p.p0c1
  | .p0c2 => p.p0c2
  | .p0c3 => p.p0c3
  | .p0d0 => p.p0d0
  | .p0d1 => p.p0d1
  | .p0d2 => p.p0d2
  | .p0d3 => p.p0d3

/-- The level at a pin, by the constraints of R72; `float` is the level where there is none. An open-drain pin whose
latch bit is 0 "is held low by the chip itself" (R229; log 29). -/
def padLevel (float : Bool) : ChipDrive → Ext → Bool
  | .openDrainLow, _ => false
  | .pushPull _, .forced l => l
  | .pushPull b, .driven _ => b
  | .pushPull b, .undriven => b
  | .pulledUp, .undriven => true
  | .pulledUp, .driven l => l
  | .pulledUp, .forced l => l
  | .released, .undriven => float
  | .released, .driven l => l
  | .released, .forced l => l

/-- `Pin(port, t)` of R72, one pin: true is the high level. -/
def pinLevel (s : State) (p : Pin) : Bool :=
  padLevel (Config.floatingLevel s.time p) (chipDrive s p) (extDrive s.pins p)

/-- The level at RESET: true is high (R234). -/
def resetLevel (s : State) : Bool :=
  padLevel (Config.floatingReset s.time) (if s.params.pullUpReset then .pulledUp else .released) s.pins.reset

/-- Four bits, b3 first. -/
def nibbleOf (b3 b2 b1 b0 : Bool) : Nibble :=
  BitVec.ofBool b3 ++ BitVec.ofBool b2 ++ BitVec.ofBool b1 ++ BitVec.ofBool b0

/-- R66: the levels of the pins of port 0B; bit 3 is always 0. -/
def readPortB (s : State) : Nibble := nibbleOf false (pinLevel s .p0b2) (pinLevel s .p0b1) (pinLevel s .p0b0)

def readPortC (s : State) : Nibble :=
  nibbleOf (pinLevel s .p0c3) (pinLevel s .p0c2) (pinLevel s .p0c1) (pinLevel s .p0c0)

def readPortD (s : State) : Nibble :=
  nibbleOf (pinLevel s .p0d3) (pinLevel s .p0d2) (pinLevel s .p0d1) (pinLevel s .p0d0)

/-! ## Data memory -/

/-- The rows of the data-memory map (R63). -/
inductive Region where
  | ram (i : Fin 16)
  | unmapped
  | portB
  | portC
  | portD
  | fixedZero
  | bcdFlag
  | psw
  deriving DecidableEq, Repr

/-- The map of R63. -/
def region (a : DAddr) : Region :=
  if h : a.toNat < 0x10 then .ram ⟨a.toNat, h⟩
  else if a.toNat < 0x71 then .unmapped
  else if a.toNat = 0x71 then .portB
  else if a.toNat = 0x72 then .portC
  else if a.toNat = 0x73 then .portD
  else if a.toNat < 0x7E then .fixedZero
  else if a.toNat = 0x7E then .bcdFlag
  else .psw

/-- R71: 7EH reads {000B, BCD}. -/
def bcdNibble (s : State) : Nibble := nibbleOf false false false s.bcd

/-- R71: 7FH reads {CMP, CY, Z, 0}. -/
def pswNibble (s : State) : Nibble := nibbleOf s.cmp s.cy s.z false

/-- RAM nibble `i` can be read: it has been written, or `UNDEFINED_READ` is `any_value` (R26, D15). -/
def ramReadable (i : Fin 16) (s : State) : Bool := s.params.undefinedRead == .anyValue || s.ramWritten[i]

/-- `MemRead(a, 1)` (R64 to R71). -/
def dmRead (a : DAddr) (s : State) : Except Fault Nibble :=
  match region a with
  | .ram i => if ramReadable i s then .ok s.ram[i] else .error (.undefinedRead a)
  | .unmapped =>
    match s.params.unmappedDm with
    | .fault => .error (.unmappedDataMemory a)
    | .readZeroWriteIgnored => .ok 0
  | .portB => .ok (readPortB s)
  | .portC => .ok (readPortC s)
  | .portD => .ok (readPortD s)
  | .fixedZero => .ok 0
  | .bcdFlag => .ok (bcdNibble s)
  | .psw => .ok (pswNibble s)

/-- `MemWrite(a, 1, v)` (R64 to R71). -/
def dmWrite (a : DAddr) (v : Nibble) (s : State) : Except Fault State :=
  match region a with
  | .ram i => .ok (s.setRam i v)
  | .unmapped =>
    match s.params.unmappedDm with
    | .fault => .error (.unmappedDataMemory a)
    | .readZeroWriteIgnored => .ok s
  | .portB => .ok (s.drivePortB (v.extractLsb' 0 3))
  | .portC => .ok (s.drivePortC v)
  | .portD => .ok (s.drivePortD v)
  | .fixedZero => .ok s
  | .bcdFlag => .ok (s.setFlags (v.getLsbD 0) s.cmp s.cy s.z)
  | .psw => .ok (s.setFlags s.bcd (v.getLsbD 3) (v.getLsbD 2) (v.getLsbD 1))

/-- The address `a` exists for an access, which then raises no `UnmappedDataMemory` (R65, D9). -/
def accessible (a : DAddr) (s : State) : Bool :=
  region a != .unmapped || s.params.unmappedDm == .readZeroWriteIgnored

/-! ## How a meaning goes on -/

/-- Reads data memory and goes on with the nibble. -/
def readThen (a : DAddr) (s : State) (k : Nibble → Out) : Out :=
  match dmRead a s with
  | .error f => .fault f
  | .ok v => k v

/-- The operand address is checked before any operand is read (R222, D23). -/
def addressThen (a : DAddr) (s : State) (k : Out) : Out :=
  if accessible a s then k else .fault (.unmappedDataMemory a)

/-- The result of a store, then the next instruction. -/
def thenAdvance (r : Except Fault State) : Out :=
  match r with
  | .error f => .fault f
  | .ok t => .next t.advancePc

/-- `if cond then skip; pc <- (A + 1) mod 512`, where `skip` is `skip_pending <- 1` (R160). -/
def skipIf (cond : Bool) (s : State) : Out := .next (s.setSkip (cond || s.skipPending)).advancePc

/-! ## Reset and standby -/

/-- Whether a reset keeps RAM and latches: kind B, in a standby mode (R261). A reset in the waits is of kind A (log 15). -/
def resetKeepsData : RunMode → Bool
  | .halt _ | .stop _ => true
  | .operating | .reset | .wait => false

/-- RESET goes low: `reset(kind)` of R261. `run` stays `reset` while the pin is low (R227). -/
def enterReset (s : State) : State :=
  (if resetKeepsData s.run then s.initialise else s.loseData.initialise).setRun .reset

/-- One step with RESET low: the reset, once (R260, R261). -/
def resetStep (s : State) : State :=
  if s.run = .reset then s else enterReset s

/-- One step with RESET high in which no instruction runs (R228 to R233). -/
def idleStep (s : State) : State :=
  match s.run with
  | .operating => s
  | .halt byP0B0 => if byP0B0 && pinLevel s .p0b0 then s.setRun .operating else s
  | .stop byP0B1 => if byP0B1 && pinLevel s .p0b1 then s.setRun .wait else s
  | .reset => s.setRun .wait
  | .wait => s.setRun .operating

/-- STOP 0000B: "all peripheral circuits return to their reset state, then operation stops" (R192). -/
def enterStopReset (s : State) : State := s.initialise.setRun (.stop false)

/-- The word in a skipped slot is not decoded: it acts as NOP (R39). -/
def skipSlot (s : State) : State := (s.setSkip false).advancePc

/-- Whether the system clock oscillates (R227, R232). -/
def oscillating (s : State) : Bool :=
  match s.run with
  | .stop _ => false
  | .operating | .halt _ | .reset | .wait => true

/-! ## Fetch -/

/-- The instruction at pc (R82, R112), or the fault `IllegalEncoding` (R108 to R110, D16). -/
def fetchInstr (s : State) : Except Fault Instr :=
  match s.rom.read s.pc.toNat with
  | none => .error (.illegalEncoding s.pc none)
  | some w =>
    match decode w with
    | .error _ => .error (.illegalEncoding s.pc (some w))
    | .ok i => .ok i

/-- Time passes after an instruction. -/
def tickOut : Out → Out
  | .next t => .next t.tick
  | .fault f => .fault f
  | .refused r => .refused r

/-- The ROM holds `w` at pc, and the machine is about to execute it: RESET high, operating, nothing to skip. -/
def loadWordAtPc (s : State) (w : Word) : State :=
  ((((s.setRom (s.rom.write s.pc.toNat w)).setRun .operating).setSkip false).setPins
    { s.pins with reset := .driven true })

end Sys2Proof.Machine
end

