-- ==== Sys2Proof/Machine/Operands.lean ====
section
/-! DEFINITION. The operand forms (spec/30_encoding.md R104): general register `r`, data memory `m`, immediate `n4`,
mask `n`, program address `addr`, standby operand. -/

namespace Sys2Proof.Machine

/-- General register `r` is the data-memory nibble at 00H + r (10_state.md R24). -/
def regIndex (r : Nibble) : Fin 16 := ⟨r.toNat, r.isLt⟩

/-- The data-memory address {000B, r} of general register `r` (R24, R104). -/
def regAddr (r : Nibble) : DAddr := (0 : BitVec 3) ++ r

/-- The nibble that general register `r` holds (R24). -/
def readReg (r : Nibble) (s : State) : Nibble := s.ram[regIndex r]

/-- Reads `x[r]`, which is `MemRead(r, 1)` (R14, R25), and goes on with the nibble. -/
def readRegThen (r : Nibble) (s : State) (k : Nibble → Out) : Out := readThen (regAddr r) s k

/-- The operands of an `r, m` form: the address `m` is checked, then the register and the memory nibble are read, in that
order, before anything is written (40_add_sub.md R131, R135; R222). -/
def readBoth (r : Nibble) (m : DAddr) (s : State) (k : Nibble → Nibble → Out) : Out :=
  addressThen m s (readRegThen r s fun a => readThen m s (k a))

/-- `x[r] <- v` (R14, R24). -/
def writeReg (r : Nibble) (v : Nibble) (s : State) : State := s.setRam (regIndex r) v

/-- `addr[8:0]`, what the pc receives (R104). -/
def targetOf (addr : BitVec 11) : PAddr := addr.extractLsb' 0 9

/-- Every bit that the mask `n` selects is 1 in `v` (R161). -/
def allSet (v n : Nibble) : Bool := v &&& n == n

/-- Every bit that the mask `n` selects is 0 in `v` (R162). -/
def allClear (v n : Nibble) : Bool := v &&& n == 0

/-- The operand tests the CMP bit itself: m = 7FH and n[3] = 1 (R163). -/
def testsCmp (m : DAddr) (n : Nibble) : Bool := m == 0x7F && n.getLsbD 3

/-- `v` with bit 3 cleared: 7FH after CMP <- 0. -/
def withoutCmp (v : Nibble) : Nibble := v &&& 0b0111

/-- The nibble that SKT and SKF test, when data memory reads `v` (R161 to R163). It is `v`, but on the CMP bit itself,
where the order of test and clear decides. The order is without effect where CMP is already 0. -/
def testedNibble (m : DAddr) (n v : Nibble) (s : State) : Except Fault Nibble :=
  if testsCmp m n then
    match s.params.sktCmpOrder with
    | .readThenClear => .ok v
    | .clearThenRead => .ok (withoutCmp v)
    | .fault => .error (.unspecifiedCmpTest s.pc)
    | .either => .ok (if !v.getLsbD 3 || Config.sktReadsOldCmp then v else withoutCmp v)
  else .ok v

end Sys2Proof.Machine
end

