-- ==== Sys2Proof/Machine/Flags.lean ====
section
/-! DEFINITION. The ALU's arithmetic and its flags (spec/40_add_sub.md R130 to R134, 10_state.md R31, R32). -/

namespace Sys2Proof.Machine

/-- What an ALU operation gives: carry or borrow, and the 4-bit result. -/
structure AluOut where
  cy : Bool
  res : Nibble
  deriving DecidableEq, Repr

/-- BIN_ADD of R132: the exact sum, narrowed. -/
def binAdd (a b : Nibble) (c : Bool) : AluOut :=
  let s := a.toNat + b.toNat + c.toNat
  { cy := decide (s > 15), res := BitVec.ofNat 4 s }

/-- BIN_SUB of R132: the exact difference, narrowed. -/
def binSub (a b : Nibble) (c : Bool) : AluOut :=
  let d : Int := (a.toNat : Int) - b.toNat - c.toNat
  { cy := decide (d < 0), res := BitVec.ofInt 4 d }

/-- ADD_TABLE of R133, by the binary sum 0 to 31: carry and result. -/
def addTable : List (Bool × Nibble) :=
  [(false, 0b0000), (false, 0b0001), (false, 0b0010), (false, 0b0011),
   (false, 0b0100), (false, 0b0101), (false, 0b0110), (false, 0b0111)] ++
  [(false, 0b1000), (false, 0b1001), (true, 0b0000), (true, 0b0001),
   (true, 0b0010), (true, 0b0011), (true, 0b0100), (true, 0b0101)] ++
  [(true, 0b0110), (true, 0b0111), (true, 0b1000), (true, 0b1001),
   (true, 0b1110), (true, 0b1111), (true, 0b1100), (true, 0b1101)] ++
  [(true, 0b1110), (true, 0b1111), (true, 0b1100), (true, 0b1101),
   (true, 0b1010), (true, 0b1011), (true, 0b1100), (true, 0b1101)]

/-- SUB_TABLE of R133, by {borrow, binary result}: differences 0 to 15, then -16 to -1. -/
def subTable : List (Bool × Nibble) :=
  [(false, 0b0000), (false, 0b0001), (false, 0b0010), (false, 0b0011),
   (false, 0b0100), (false, 0b0101), (false, 0b0110), (false, 0b0111)] ++
  [(false, 0b1000), (false, 0b1001), (true, 0b1100), (true, 0b1101),
   (true, 0b1110), (true, 0b1111), (true, 0b1100), (true, 0b1101)] ++
  [(true, 0b1110), (true, 0b1111), (true, 0b1100), (true, 0b1101),
   (true, 0b1110), (true, 0b1111), (true, 0b0000), (true, 0b0001)] ++
  [(true, 0b0010), (true, 0b0011), (true, 0b0100), (true, 0b0101),
   (true, 0b0110), (true, 0b0111), (true, 0b1000), (true, 0b1001)]

/-- The decimal correction: the row of a table that {cy, res} selects (R133). -/
def correct (table : List (Bool × Nibble)) (o : AluOut) : AluOut :=
  let row := table.getD (16 * o.cy.toNat + o.res.toNat) (false, 0)
  { cy := row.1, res := row.2 }

/-- The addition that the BCD flag selects (R133). -/
def aluAdd (bcd : Bool) (a b : Nibble) (c : Bool) : AluOut :=
  if bcd then correct addTable (binAdd a b c) else binAdd a b c

/-- The subtraction that the BCD flag selects (R133). -/
def aluSub (bcd : Bool) (a b : Nibble) (c : Bool) : AluOut :=
  if bcd then correct subTable (binSub a b c) else binSub a b c

/-- Z after an arithmetic instruction (R31): reset by a result other than 0; set by 0 if CMP = 0, else kept. -/
def zAfter (res : Nibble) (cmp z : Bool) : Bool :=
  if res = 0 then (if cmp then z else true) else false

/-- ARITH_COMMIT of R134: the flags, then the store unless CMP = 1. -/
def arithCommit (dest : DAddr) (o : AluOut) (s : State) : Except Fault State :=
  let t := s.setFlags s.bcd s.cmp o.cy (zAfter o.res s.cmp s.z)
  if s.cmp then .ok t else dmWrite dest o.res t

/-- The `r, m` form: register with data memory, result to the register (R130). -/
def arithRM (alu : Bool → Nibble → Nibble → Bool → AluOut) (carryIn : Bool) (r : Nibble) (m : DAddr) (s : State) : Out :=
  readBoth r m s fun a b => thenAdvance (arithCommit (regAddr r) (alu s.bcd a b carryIn) s)

/-- The `m, #n4` form: data memory with immediate, result to data memory (R130). -/
def arithMI (alu : Bool → Nibble → Nibble → Bool → AluOut) (carryIn : Bool) (m : DAddr) (n4 : Nibble) (s : State) : Out :=
  readThen m s fun a => thenAdvance (arithCommit m (alu s.bcd a n4 carryIn) s)

end Sys2Proof.Machine
end

