-- ==== Sys2Proof/Machine/AddSub.lean ====
section
/-! DEFINITION. Addition and subtraction (spec/40_add_sub.md R135 to R142). -/

namespace Sys2Proof.Machine

/-- ADD r, m (R135). -/
def execAddRM (r : Nibble) (m : DAddr) (s : State) : Out := arithRM aluAdd false r m s

/-- ADD m, #n4 (R136). -/
def execAddMI (m : DAddr) (n4 : Nibble) (s : State) : Out := arithMI aluAdd false m n4 s

/-- ADDC r, m (R137). -/
def execAddcRM (r : Nibble) (m : DAddr) (s : State) : Out := arithRM aluAdd s.cy r m s

/-- ADDC m, #n4 (R138). -/
def execAddcMI (m : DAddr) (n4 : Nibble) (s : State) : Out := arithMI aluAdd s.cy m n4 s

/-- SUB r, m (R139). -/
def execSubRM (r : Nibble) (m : DAddr) (s : State) : Out := arithRM aluSub false r m s

/-- SUB m, #n4 (R140). -/
def execSubMI (m : DAddr) (n4 : Nibble) (s : State) : Out := arithMI aluSub false m n4 s

/-- SUBC r, m (R141). -/
def execSubcRM (r : Nibble) (m : DAddr) (s : State) : Out := arithRM aluSub s.cy r m s

/-- SUBC m, #n4 (R142). -/
def execSubcMI (m : DAddr) (n4 : Nibble) (s : State) : Out := arithMI aluSub s.cy m n4 s

end Sys2Proof.Machine
end

