-- ==== Sys2Proof/Machine/BranchSubroutine.lean ====
section
/-! DEFINITION. Branch and subroutine (spec/44_branch_subroutine.md R181 to R185). -/

namespace Sys2Proof.Machine

/-- BR addr (R181). The decoder already refuses an `addr` whose upper two bits are not 0 (D7). -/
def execBr (addr : BitVec 11) (s : State) : Out :=
  if addrOk addr then .next (s.setPc (targetOf addr))
  else .fault (.illegalEncoding s.pc (some (encode (.br addr))))

/-- CALL addr (R182): the return address is that of the instruction after the CALL (D2); one level (D3). -/
def execCall (addr : BitVec 11) (s : State) : Out :=
  if addrOk addr then
    if s.depth = 1 then .fault (.stackOverflow s.pc)
    else .next ((s.setStack (s.pc + 1) 1).setPc (targetOf addr))
  else .fault (.illegalEncoding s.pc (some (encode (.call addr))))

/-- The return of RET and RETSK: pc <- ASR, depth <- 0; ASR keeps its value (R183). -/
def popReturn (s : State) : Except Fault State :=
  if s.depth = 0 then .error (.stackUnderflow s.pc) else .ok ((s.setStack s.asr 0).setPc s.asr)

/-- RET (R183). -/
def execRet (s : State) : Out :=
  match popReturn s with
  | .error f => .fault f
  | .ok t => .next t

/-- RETSK (R184): return and skip the instruction at the return address. -/
def execRetsk (s : State) : Out :=
  match popReturn s with
  | .error f => .fault f
  | .ok t => .next (t.setSkip true)

end Sys2Proof.Machine
end

