-- ==== Sys2Proof/Machine/JudgeCompare.lean ====
section
/-! DEFINITION. Bit judgement and comparison (spec/42_judge_compare.md R160 to R168). -/

namespace Sys2Proof.Machine

/-- SKT and SKF: test the bits, reset CMP to 0 whether or not the skip happens (R161, R162). -/
def judge (test : Nibble → Nibble → Bool) (m : DAddr) (n : Nibble) (s : State) : Out :=
  readThen m s fun v =>
    match testedNibble m n v s with
    | .error f => .fault f
    | .ok u => skipIf (test u n) (s.setFlags s.bcd false s.cy s.z)

/-- SKE, SKNE, SKGE, SKLT: compare as unsigned binary values, whatever BCD and CMP are; no flag changes (R164). -/
def compareSkip (test : Nibble → Nibble → Bool) (m : DAddr) (n4 : Nibble) (s : State) : Out :=
  readThen m s fun v => skipIf (test v n4) s

/-- SKT m, #n (R161). -/
def execSkt (m : DAddr) (n : Nibble) (s : State) : Out := judge allSet m n s

/-- SKF m, #n (R162). -/
def execSkf (m : DAddr) (n : Nibble) (s : State) : Out := judge allClear m n s

/-- SKE m, #n4 (R165). -/
def execSke (m : DAddr) (n4 : Nibble) (s : State) : Out := compareSkip (fun v k => v == k) m n4 s

/-- SKNE m, #n4 (R166). -/
def execSkne (m : DAddr) (n4 : Nibble) (s : State) : Out := compareSkip (fun v k => v != k) m n4 s

/-- SKGE m, #n4 (R167). -/
def execSkge (m : DAddr) (n4 : Nibble) (s : State) : Out := compareSkip (fun v k => decide (k.toNat ≤ v.toNat)) m n4 s

/-- SKLT m, #n4 (R168). -/
def execSklt (m : DAddr) (n4 : Nibble) (s : State) : Out := compareSkip (fun v k => decide (v.toNat < k.toNat)) m n4 s

end Sys2Proof.Machine
end

