-- ==== Sys2Proof/Machine/Logic.lean ====
section
/-! DEFINITION. Logic operations (spec/41_logic.md R150 to R156): stored whatever CMP is, no flag touched. -/

namespace Sys2Proof.Machine

/-- The `r, m` form: result to the general register (R150). -/
def logicRM (f : Nibble → Nibble → Nibble) (r : Nibble) (m : DAddr) (s : State) : Out :=
  readBoth r m s fun a b => .next (writeReg r (f a b) s).advancePc

/-- The `m, #n4` form: result to data memory (R150). -/
def logicMI (f : Nibble → Nibble → Nibble) (m : DAddr) (n4 : Nibble) (s : State) : Out :=
  readThen m s fun a => thenAdvance (dmWrite m (f a n4) s)

/-- OR r, m (R151). -/
def execOrRM (r : Nibble) (m : DAddr) (s : State) : Out := logicRM (· ||| ·) r m s

/-- OR m, #n4 (R152). -/
def execOrMI (m : DAddr) (n4 : Nibble) (s : State) : Out := logicMI (· ||| ·) m n4 s

/-- AND r, m (R153). -/
def execAndRM (r : Nibble) (m : DAddr) (s : State) : Out := logicRM (· &&& ·) r m s

/-- AND m, #n4 (R154). -/
def execAndMI (m : DAddr) (n4 : Nibble) (s : State) : Out := logicMI (· &&& ·) m n4 s

/-- XOR r, m (R155). -/
def execXorRM (r : Nibble) (m : DAddr) (s : State) : Out := logicRM (· ^^^ ·) r m s

/-- XOR m, #n4 (R156). -/
def execXorMI (m : DAddr) (n4 : Nibble) (s : State) : Out := logicMI (· ^^^ ·) m n4 s

end Sys2Proof.Machine
end

