-- ==== Sys2Proof/Machine/Other.lean ====
section
/-! DEFINITION. STOP, HALT and NOP (spec/45_other.md R190 to R193). -/

namespace Sys2Proof.Machine

/-- NOP (R190). -/
def execNop (s : State) : Out := .next s.advancePc

/-- HALT h (R191): 0000B always enters HALT mode; 0001B only while P0B0 is low, else it acts as NOP (D25). -/
def execHalt (h : Nibble) (s : State) : Out :=
  if standbyOk h then
    .next (s.advancePc.setRun
      (if h.getLsbD 0 then (if pinLevel s .p0b0 then s.run else .halt true) else .halt false))
  else .fault (.illegalEncoding s.pc (some (encode (.halt h))))

/-- STOP x (R192): 0000B returns the peripheral circuits to their reset state and stops; 0001B stops only while P0B1 is
low, else it acts as NOP (D25). -/
def execStop (x : Nibble) (s : State) : Out :=
  if standbyOk x then
    .next (if x.getLsbD 0 then s.advancePc.setRun (if pinLevel s .p0b1 then s.run else .stop true)
      else enterStopReset s)
  else .fault (.illegalEncoding s.pc (some (encode (.stop x))))

end Sys2Proof.Machine
end

