-- ==== Sys2Proof/Machine/RotateTransfer.lean ====
section
/-! DEFINITION. Rotation and transfer (spec/43_rotate_transfer.md R170 to R175). -/

namespace Sys2Proof.Machine

/-- {CY, v[3:1]} (R170). -/
def rotateRight (cy : Bool) (v : Nibble) : Nibble := BitVec.ofBool cy ++ v.extractLsb' 1 3

/-- RORC r (R170): stored whatever CMP is; Z is not changed. -/
def execRorc (r : Nibble) (s : State) : Out :=
  readRegThen r s fun v => .next ((writeReg r (rotateRight s.cy v) s).setFlags s.bcd s.cmp (v.getLsbD 0) s.z).advancePc

/-- LD r, m (R173). -/
def execLd (r : Nibble) (m : DAddr) (s : State) : Out :=
  readThen m s fun v => .next (writeReg r v s).advancePc

/-- ST m, r (R174). -/
def execSt (m : DAddr) (r : Nibble) (s : State) : Out :=
  addressThen m s (readRegThen r s fun v => thenAdvance (dmWrite m v s))

/-- MOV m, #n4 (R175): does not read m. -/
def execMov (m : DAddr) (n4 : Nibble) (s : State) : Out := thenAdvance (dmWrite m n4 s)

end Sys2Proof.Machine
end

