-- ==== Sys2Proof/Machine/Step.lean ====
section
/-! DEFINITION. One step: reset while RESET is low, else a standby mode, else a skipped slot, else one instruction. -/

namespace Sys2Proof.Machine

/-- One step in operating mode: a skipped slot (R39), or the instruction at pc. -/
def operate (s : State) : Out :=
  if s.skipPending then .next (skipSlot s).tick
  else
    match fetchInstr s with
    | .error f => .fault f
    | .ok i => tickOut (exec i s)

/-- One step of the machine. RESET low comes before everything else (60_exceptions.md R224, R260). -/
def step (s : State) : Host.Outcome State Fault Refusal :=
  if resetLevel s = false then .next (resetStep s).tick
  else if s.run = .operating then operate s
  else .next (idleStep s).tick

/-- `s` with the instruction of `nbits` bits `w` where the next step fetches it (log 2). -/
def State.withFetchWord (s : State) (nbits w : Nat) : State := loadWordAtPc s (wordOfBits nbits w)

end Sys2Proof.Machine
end

