-- ==== Sys2Proof/Safety.lean ====
section
/-! DEFINITION. What claims about steps are stated in: the invariant, the frames, the end of a run. -/

namespace Sys2Proof.Machine

/-- What a reset and STOP 0000B leave (spec/10_state.md R42, spec/60_exceptions.md R232): pc 000H, PSWORD 0, ports in
input mode, stack empty, nothing to skip. -/
abbrev Initialised (s : State) : Prop :=
  s.pc = 0 ∧ s.bcd = false ∧ s.cmp = false ∧ s.cy = false ∧ s.z = false ∧
  s.modeB = .input ∧ s.modeC = .input ∧ s.modeD = .input ∧ s.depth = 0 ∧ s.skipPending = false

/-- The invariant of the machine: the ROM is in its canonical form; a skip is pending in operating mode only; while RESET
is held low and in the STOP mode of STOP 0000B the chip is in its initialised state. -/
abbrev Inv (s : State) : Prop :=
  s.rom.wf = true ∧ (s.run ≠ .operating → s.skipPending = false) ∧
  (s.run = .reset ∨ s.run = .stop false → Initialised s)

/-- The fields that no instruction touches: the parts fixed at manufacture and the model's own (R9, R82, R72). -/
abbrev SameFixed (s t : State) : Prop :=
  t.rom = s.rom ∧ t.params = s.params ∧ t.pins = s.pins ∧ t.inputs = s.inputs ∧ t.time = s.time

/-- Stack, run mode, skip flag and the fixed fields are as before: what no data instruction but a skip touches. -/
abbrev SameControl (s t : State) : Prop :=
  t.asr = s.asr ∧ t.depth = s.depth ∧ t.run = s.run ∧ t.skipPending = s.skipPending ∧ SameFixed s t

abbrev SameFlags (s t : State) : Prop := t.bcd = s.bcd ∧ t.cmp = s.cmp ∧ t.cy = s.cy ∧ t.z = s.z

abbrev SamePorts (s t : State) : Prop :=
  t.latchB = s.latchB ∧ t.latchC = s.latchC ∧ t.latchD = s.latchD ∧
  t.modeB = s.modeB ∧ t.modeC = s.modeC ∧ t.modeD = s.modeD

/-- Every data-memory address but those that `changed` names reads as before. -/
abbrev ReadsAsBefore (changed : DAddr → Bool) (s t : State) : Prop :=
  ∀ a : DAddr, changed a = false → dmRead a t = dmRead a s

/-- The machine rests until a reset (spec/92_eei_decisions.md D22). -/
abbrev Finished (s : State) : Prop := s.run = .halt false ∨ s.run = .stop false

/-- The level a sample gives RESET is high: driven so, or left to the built-in pull-up resistor (R234). -/
abbrev ResetHigh (params : Params) (p : PinSample) : Prop :=
  p.reset = .driven true ∨ p.reset = .forced true ∨ (p.reset = .undriven ∧ params.pullUpReset = true)

/-- RESET is high now and in every later sample: the environment never resets the chip. The port pins may do anything. -/
abbrev NeverReset (s : State) : Prop := ResetHigh s.params s.pins ∧ ∀ p ∈ s.inputs, ResetHigh s.params p

/-! ## Which instruction does what -/

/-- The data-memory operand `m` (R104). -/
def operandAddr : Instr → Option DAddr
  | .addRM _ m | .addMI m _ | .addcRM _ m | .addcMI m _ | .subRM _ m | .subMI m _ | .subcRM _ m | .subcMI m _
  | .orRM _ m | .orMI m _ | .andRM _ m | .andMI m _ | .xorRM _ m | .xorMI m _ | .skt m _ | .skf m _ | .ske m _
  | .skne m _ | .skge m _ | .sklt m _ | .ld _ m | .st m _ | .mov m _ => some m
  | .rorc _ | .br _ | .call _ | .ret | .retsk | .stop _ | .halt _ | .nop => none

/-- The data-memory addresses an instruction reads, in the order in which it reads them: register before `m` (R131, R135,
R160, R170, R173, R174). -/
def readAddrs : Instr → List DAddr
  | .addRM r m | .addcRM r m | .subRM r m | .subcRM r m | .orRM r m | .andRM r m | .xorRM r m => [regAddr r, m]
  | .addMI m _ | .addcMI m _ | .subMI m _ | .subcMI m _ | .orMI m _ | .andMI m _ | .xorMI m _ | .skt m _ | .skf m _
  | .ske m _ | .skne m _ | .skge m _ | .sklt m _ | .ld _ m => [m]
  | .rorc r | .st _ r => [regAddr r]
  | .mov _ _ | .br _ | .call _ | .ret | .retsk | .stop _ | .halt _ | .nop => []

/-- ADD, ADDC, SUB, SUBC, both operand forms (R130). -/
def isArith : Instr → Bool
  | .addRM _ _ | .addMI _ _ | .addcRM _ _ | .addcMI _ _ | .subRM _ _ | .subMI _ _ | .subcRM _ _ | .subcMI _ _ => true
  | .orRM _ _ | .orMI _ _ | .andRM _ _ | .andMI _ _ | .xorRM _ _ | .xorMI _ _ | .skt _ _ | .skf _ _ | .ske _ _
  | .skne _ _ | .skge _ _ | .sklt _ _ | .rorc _ | .ld _ _ | .st _ _ | .mov _ _ | .br _ | .call _ | .ret | .retsk
  | .stop _ | .halt _ | .nop => false

/-- The data-memory address an instruction stores to: its operand `m` in the `m, #n4` forms, ST and MOV. An arithmetic
one stores only if CMP = 0 (R33). -/
def storeAddr : Instr → Option DAddr
  | .addMI m _ | .addcMI m _ | .subMI m _ | .subcMI m _ | .orMI m _ | .andMI m _ | .xorMI m _ | .st m _ | .mov m _ => some m
  | .addRM _ _ | .addcRM _ _ | .subRM _ _ | .subcRM _ _ | .orRM _ _ | .andRM _ _ | .xorRM _ _ | .skt _ _ | .skf _ _
  | .ske _ _ | .skne _ _ | .skge _ _ | .sklt _ _ | .rorc _ | .ld _ _ | .br _ | .call _ | .ret | .retsk | .stop _
  | .halt _ | .nop => none

/-- The destination register of the `r, m` forms, LD and RORC. -/
def destReg : Instr → Option Nibble
  | .addRM r _ | .addcRM r _ | .subRM r _ | .subcRM r _ | .orRM r _ | .andRM r _ | .xorRM r _ | .ld r _ | .rorc r => some r
  | .addMI _ _ | .addcMI _ _ | .subMI _ _ | .subcMI _ _ | .orMI _ _ | .andMI _ _ | .xorMI _ _ | .st _ _ | .mov _ _
  | .skt _ _ | .skf _ _ | .ske _ _ | .skne _ _ | .skge _ _ | .sklt _ _ | .br _ | .call _ | .ret | .retsk | .stop _
  | .halt _ | .nop => none

/-- The instruction's own conditional or unconditional change of the course of execution (R180): BR, CALL, RET, RETSK,
and STOP 0000B, which returns to the reset state (R192). -/
def redirects : Instr → Prop
  | .br _ | .call _ | .ret | .retsk => True
  | .stop x => x.getLsbD 0 = false
  | .addRM _ _ | .addMI _ _ | .addcRM _ _ | .addcMI _ _ | .subRM _ _ | .subMI _ _ | .subcRM _ _ | .subcMI _ _
  | .orRM _ _ | .orMI _ _ | .andRM _ _ | .andMI _ _ | .xorRM _ _ | .xorMI _ _ | .skt _ _ | .skf _ _ | .ske _ _
  | .skne _ _ | .skge _ _ | .sklt _ _ | .rorc _ | .ld _ _ | .st _ _ | .mov _ _ | .halt _ | .nop => False

/-- STOP 0000B (R192). -/
def isStopReset (i : Instr) : Prop := i = .stop 0

end Sys2Proof.Machine
end

