-- ==== Sys2Proof/Certificates/Slice0/Obligations.lean ====
section
/-! DEFINITION. The statements for the provers, and the notions they are written in. R<n> is a rule of spec/, D<n> a
decision of spec/92_eei_decisions.md, log <n> the row notes/assumptions/<n>.md. Wherever a statement says that pc becomes
`s.pc + 1`, the wrap from 1FFH to 000H is D1 (log 16). -/

namespace Sys2Proof.Claims

open Sys2Proof.Machine

/-! ## Values -/

/-- The decimal outcome of a sum, in the words and the shaded rows of R133: carry and digit. -/
def decimalSum (n : Nat) : Bool × Nibble :=
  if n ≤ 9 then (false, BitVec.ofNat 4 n)
  else if n ≤ 19 then (true, BitVec.ofNat 4 (n - 10))
  else (true, [0xE, 0xF, 0xC, 0xD, 0xE, 0xF, 0xC, 0xD, 0xA, 0xB, 0xC, 0xD].getD (n - 20) 0)

/-- The decimal outcome of a difference, in the words and the shaded rows of R133: borrow and digit. -/
def decimalDiff (d : Int) : Bool × Nibble :=
  if 0 ≤ d ∧ d ≤ 9 then (false, BitVec.ofInt 4 d)
  else if -10 ≤ d ∧ d < 0 then (true, BitVec.ofInt 4 (d + 10))
  else if 0 < d then (true, [0xC, 0xD, 0xE, 0xF, 0xC, 0xD].getD (d - 10).toNat 0)
  else (true, [0xE, 0xF, 0xC, 0xD, 0xE, 0xF].getD (d + 16).toNat 0)

/-- Carry and result of a sum, decimal if BCD = 1, else binary (R132, R133). -/
def sumBy (bcd : Bool) (n : Nat) : Bool × Nibble := if bcd then decimalSum n else (decide (15 < n), BitVec.ofNat 4 n)

/-- Borrow and result of a difference, decimal if BCD = 1, else binary (R132, R133). -/
def diffBy (bcd : Bool) (d : Int) : Bool × Nibble := if bcd then decimalDiff d else (decide (d < 0), BitVec.ofInt 4 d)

/-- Z after an arithmetic result (R31): 1 only if the result is 0, and then the old Z if CMP = 1. -/
def zRule (res : Nibble) (cmp z : Bool) : Bool := decide (res = 0) && (!cmp || z)

/-- The flags after an arithmetic instruction, before any store (R134). -/
def afterArith (s : State) (o : Bool × Nibble) : State := { s with cy := o.1, z := zRule o.2 s.cmp s.z }

/-- General register `r` (R24). -/
def regOf (r : Nibble) (s : State) : Nibble := s.ram[r.toNat]'r.isLt

/-- General register `r` written (R24), after which it counts as written (R26). -/
def withReg (r v : Nibble) (s : State) : State :=
  { s with ram := s.ram.set r.toNat v r.isLt, ramWritten := s.ramWritten.set r.toNat true r.isLt }

/-- General register `r` has been written since the last reset of kind A (R26). -/
def writtenReg (r : Nibble) (s : State) : Bool := s.ramWritten[r.toNat]'r.isLt

/-- `a` is a RAM nibble that nothing has written since the last reset of kind A (R26, R64). -/
def unwritten (s : State) (a : DAddr) : Bool := if h : a.toNat < 16 then !(s.ramWritten[a.toNat]'h) else false

/-- `t` is `s` after `v` was stored at data-memory address `m` (the map of R63; R64, R65, R67, R70, R71). -/
def StoreEffect (m : DAddr) (v : Nibble) (s t : State) : Prop :=
  (∀ h : m.toNat < 16, t = { s with ram := s.ram.set m.toNat v h, ramWritten := s.ramWritten.set m.toNat true h }) ∧
  (0x10 ≤ m.toNat → m.toNat ≤ 0x70 → t = s) ∧
  (m = 0x71 → t = { s with latchB := v.extractLsb' 0 3, modeB := .output }) ∧
  (m = 0x72 → t = { s with latchC := v, modeC := .output }) ∧
  (m = 0x73 → t = { s with latchD := v, modeD := .output }) ∧
  (0x74 ≤ m.toNat → m.toNat ≤ 0x7D → t = s) ∧
  (m = 0x7E → t = { s with bcd := v.getLsbD 0 }) ∧
  (m = 0x7F → t = { s with cmp := v.getLsbD 3, cy := v.getLsbD 2, z := v.getLsbD 1 })

/-- Digits, least significant first, as a number in base `b`. -/
def valueOf (b : Nat) : List Nibble → Nat
  | [] => 0
  | d :: ds => d.toNat + b * valueOf b ds

/-- Adding two numbers digit by digit through the carry, the least significant digit first (R130): the digits and the
last carry. -/
def addDigits (bcd : Bool) : List (Nibble × Nibble) → Bool → List Nibble × Bool
  | [], c => ([], c)
  | (a, b) :: rest, c =>
    let o := aluAdd bcd a b c
    let r := addDigits bcd rest o.cy
    (o.res :: r.1, r.2)

/-- Subtracting digit by digit through the borrow. -/
def subDigits (bcd : Bool) : List (Nibble × Nibble) → Bool → List Nibble × Bool
  | [], c => ([], c)
  | (a, b) :: rest, c =>
    let o := aluSub bcd a b c
    let r := subDigits bcd rest o.cy
    (o.res :: r.1, r.2)

/-! ## The opcode table -/

/-- Mask and match of the 31 rows of spec/opcode_table.json, in its order (R106, R107). -/
def opcodeRows : List (Word × Word) :=
  [(0xF800, 0x0000), (0xF800, 0x8000), (0xF800, 0x1000), (0xF800, 0x9000),
   (0xF800, 0x0800), (0xF800, 0x8800), (0xF800, 0x1800), (0xF800, 0x9800)] ++
  [(0xF800, 0x3000), (0xF800, 0xB000), (0xF800, 0x2000), (0xF800, 0xA000), (0xF800, 0x2800), (0xF800, 0xA800)] ++
  [(0xF800, 0xF000), (0xF800, 0xF800), (0xF800, 0x4800), (0xF800, 0x5800), (0xF800, 0xC800), (0xF800, 0xD800)] ++
  [(0xFFF0, 0x3870), (0xF800, 0x4000), (0xF800, 0xC000), (0xF800, 0xE800), (0xFE00, 0x6000), (0xFE00, 0xE000),
   (0xFFFF, 0x38E0), (0xFFFF, 0x39E0), (0xFFFE, 0x3AF0), (0xFFFE, 0x3BF0), (0xFFFF, 0x3CF0)]

end Sys2Proof.Claims

open Sys2Proof Sys2Proof.Machine Sys2Proof.Claims

/-! ## Encoding -/

/-- R103, R104, R106, R107: no operand bit is lost: the decoder reads every well-formed instruction back from its word. -/
def Obligations.DecodeReadsBackEveryEncoding : Prop :=
  ∀ i : Instr, i.wf = true → decode (encode i) = .ok i

/-- Each word has one meaning: what the decoder accepts is well formed and encodes to that very word. -/
def Obligations.EncodeReadsBackEveryDecoding : Prop :=
  ∀ (w : Word) (i : Instr), decode w = .ok i → i.wf = true ∧ encode i = w

/-- R106 to R110: the decoder accepts exactly the words that match a row of the opcode table; by D6, D7, D8 (log 20) it
refuses every other word. -/
def Obligations.DecoderAcceptsExactlyTheOpcodeRows : Prop :=
  ∀ w : Word, (∃ i, decode w = .ok i) ↔ ∃ row ∈ opcodeRows, w &&& row.1 = row.2

/-- R107: operation code 00111, "The whole word selects the instruction". -/
def Obligations.SystemGroupWholeWordSelectsInstruction : Prop :=
  ∀ w : Word,
    (∀ r, decode w = .ok (.rorc r) ↔ w = 0x3870 ||| r.zeroExtend 16) ∧
    (decode w = .ok .ret ↔ w = 0x38E0) ∧
    (decode w = .ok .retsk ↔ w = 0x39E0) ∧
    (∀ x, decode w = .ok (.stop x) ↔ (x = 0 ∧ w = 0x3AF0) ∨ (x = 1 ∧ w = 0x3AF1)) ∧
    (∀ x, decode w = .ok (.halt x) ↔ (x = 0 ∧ w = 0x3BF0) ∨ (x = 1 ∧ w = 0x3BF1)) ∧
    (decode w = .ok .nop ↔ w = 0x3CF0)

/-- R108, R109, R110 with D6, D7, D8 (log 20): each kind of reserved word is refused under its own name. -/
def Obligations.ReservedWordsAreRefusedByName : Prop :=
  ∀ w : Word,
    (w.extractLsb' 11 5 ∈ [0b01010, 0b01101, 0b01110, 0b01111, 0b10111, 0b11010] → decode w = .error (.unusedOpcode w)) ∧
    (w.extractLsb' 11 5 ∈ [0b01100, 0b11100] → w.extractLsb' 9 2 ≠ 0 → decode w = .error (.branchHighBits w)) ∧
    (w.extractLsb' 4 12 ∈ [0x3AF, 0x3BF] → w.extractLsb' 1 3 ≠ 0 → decode w = .error (.standbyOperand w)) ∧
    (w.extractLsb' 11 5 = 0b00111 → w.extractLsb' 4 12 ∉ [0x387, 0x3AF, 0x3BF] → w ∉ [0x38E0, 0x39E0, 0x3CF0] →
      decode w = .error (.undefinedSystemWord w))

/-- Words of the spec's own examples, one of each family (R135, R154, R161, R168, R170, R174, R181, R183, R191). -/
def Obligations.ManualWordsDecodeAsTheManualSays : Prop :=
  decode 0x0053 = .ok (.addRM 3 0x05) ∧ decode 0x8814 = .ok (.subMI 0x01 4) ∧ decode 0xA71B = .ok (.andMI 0x71 0b1011) ∧
  decode 0xF01B = .ok (.skt 0x01 0b1011) ∧ decode 0xD819 = .ok (.sklt 0x01 0b1001) ∧ decode 0x3871 = .ok (.rorc 1) ∧
  decode 0xC723 = .ok (.st 0x72 3) ∧ decode 0x6123 = .ok (.br 0x123) ∧ decode 0xE1F0 = .ok (.call 0x1F0) ∧
  decode 0x38E0 = .ok .ret ∧ decode 0x3BF1 = .ok (.halt 1) ∧ decode 0x3AF0 = .ok (.stop 0)

/-! ## Data memory and pins -/

/-- What a read of each data-memory address answers (the map of R63; R64, R66, R70, R71; at 10H-70H R65 by D9, log 11; at a
RAM nibble that nothing has written R26 by D15, log 6). -/
def Obligations.DataMemoryReadFollowsTheMap : Prop :=
  ∀ (a : DAddr) (s : State),
    (∀ h : a.toNat < 16, s.params.undefinedRead = .anyValue ∨ unwritten s a = false →
      dmRead a s = .ok (s.ram[a.toNat]'h)) ∧
    (s.params.undefinedRead = .fault → unwritten s a = true → dmRead a s = .error (.undefinedRead a)) ∧
    (0x10 ≤ a.toNat → a.toNat ≤ 0x70 → s.params.unmappedDm = .fault → dmRead a s = .error (.unmappedDataMemory a)) ∧
    (0x10 ≤ a.toNat → a.toNat ≤ 0x70 → s.params.unmappedDm = .readZeroWriteIgnored → dmRead a s = .ok 0) ∧
    (a = 0x71 → ∃ v, dmRead a s = .ok v ∧ v.getLsbD 3 = false ∧ v.getLsbD 2 = pinLevel s .p0b2 ∧
      v.getLsbD 1 = pinLevel s .p0b1 ∧ v.getLsbD 0 = pinLevel s .p0b0) ∧
    (a = 0x72 → ∃ v, dmRead a s = .ok v ∧ v.getLsbD 3 = pinLevel s .p0c3 ∧ v.getLsbD 2 = pinLevel s .p0c2 ∧
      v.getLsbD 1 = pinLevel s .p0c1 ∧ v.getLsbD 0 = pinLevel s .p0c0) ∧
    (a = 0x73 → ∃ v, dmRead a s = .ok v ∧ v.getLsbD 3 = pinLevel s .p0d3 ∧ v.getLsbD 2 = pinLevel s .p0d2 ∧
      v.getLsbD 1 = pinLevel s .p0d1 ∧ v.getLsbD 0 = pinLevel s .p0d0) ∧
    (0x74 ≤ a.toNat → a.toNat ≤ 0x7D → dmRead a s = .ok 0) ∧
    (a = 0x7E → dmRead a s = .ok (if s.bcd then 1 else 0)) ∧
    (a = 0x7F → ∃ v, dmRead a s = .ok v ∧ v.getLsbD 3 = s.cmp ∧ v.getLsbD 2 = s.cy ∧ v.getLsbD 1 = s.z ∧
      v.getLsbD 0 = false)

/-- What a write to each data-memory address does (R64, R67, R70, R71; the dropped bits D10, log 21; 10H-70H D9, log 11). -/
def Obligations.DataMemoryWriteFollowsTheMap : Prop :=
  ∀ (a : DAddr) (v : Nibble) (s : State),
    (0x10 ≤ a.toNat ∧ a.toNat ≤ 0x70 ∧ s.params.unmappedDm = .fault → dmWrite a v s = .error (.unmappedDataMemory a)) ∧
    (a.toNat < 0x10 ∨ 0x70 < a.toNat ∨ s.params.unmappedDm = .readZeroWriteIgnored →
      ∃ t, dmWrite a v s = .ok t ∧ StoreEffect a v s t)

/-- A write is seen by no read of another address; a read of RAM after a write gives the value written (R64, R71). -/
def Obligations.WriteIsSeenAtItsAddressOnly : Prop :=
  ∀ (a : DAddr) (v : Nibble) (s t : State), dmWrite a v s = .ok t →
    (a.toNat < 16 → dmRead a t = .ok v) ∧ ∀ b : DAddr, b ≠ a → dmRead b t = dmRead b s

/-- R72, R68: the level at a pin of port 0B (3 lines, N-channel open drain). -/
def Obligations.OpenDrainPinLevels : Prop :=
  ∀ (s : State) (pin : Pin) (bit pullUp : Bool),
    (pin, bit, pullUp) ∈ [(Pin.p0b0, s.latchB.getLsbD 0, s.params.pullUpP0B0),
      (Pin.p0b1, s.latchB.getLsbD 1, s.params.pullUpP0B1), (Pin.p0b2, s.latchB.getLsbD 2, s.params.pullUpP0B2)] →
    (s.modeB = .output → bit = false → pinLevel s pin = false) ∧
    (s.modeB = .input ∨ bit = true →
      (∀ l, extDrive s.pins pin = .driven l ∨ extDrive s.pins pin = .forced l → pinLevel s pin = l) ∧
      (extDrive s.pins pin = .undriven → pullUp = true → pinLevel s pin = true) ∧
      (extDrive s.pins pin = .undriven → pullUp = false → pinLevel s pin = Config.floatingLevel s.time pin))

/-- R72, R69: the level at a pin of ports 0C and 0D (CMOS push-pull). -/
def Obligations.PushPullPinLevels : Prop :=
  ∀ (s : State) (pin : Pin) (mode : PortMode) (bit : Bool),
    (pin, mode, bit) ∈ [(Pin.p0c0, s.modeC, s.latchC.getLsbD 0), (Pin.p0c1, s.modeC, s.latchC.getLsbD 1),
      (Pin.p0c2, s.modeC, s.latchC.getLsbD 2), (Pin.p0c3, s.modeC, s.latchC.getLsbD 3),
      (Pin.p0d0, s.modeD, s.latchD.getLsbD 0), (Pin.p0d1, s.modeD, s.latchD.getLsbD 1),
      (Pin.p0d2, s.modeD, s.latchD.getLsbD 2), (Pin.p0d3, s.modeD, s.latchD.getLsbD 3)] →
    (mode = .input → ∀ l, extDrive s.pins pin = .driven l ∨ extDrive s.pins pin = .forced l → pinLevel s pin = l) ∧
    (mode = .input → extDrive s.pins pin = .undriven → pinLevel s pin = Config.floatingLevel s.time pin) ∧
    (mode = .output → ∀ l, extDrive s.pins pin = .forced l → pinLevel s pin = l) ∧
    (mode = .output → (∀ l, extDrive s.pins pin ≠ .forced l) → pinLevel s pin = bit)

/-! ## The ALU -/

/-- R132: BIN_ADD and BIN_SUB. -/
def Obligations.BinaryArithmeticIsExact : Prop :=
  ∀ (a b : Nibble) (c : Bool),
    ((binAdd a b c).cy = true ↔ a.toNat + b.toNat + c.toNat > 0b1111) ∧
    (binAdd a b c).res.toNat = (a.toNat + b.toNat + c.toNat) % 16 ∧
    ((binSub a b c).cy = true ↔ (a.toNat : Int) - b.toNat - c.toNat < 0) ∧
    ((binSub a b c).res.toNat : Int) = ((a.toNat : Int) - b.toNat - c.toNat) % 16

/-- R133: with BCD = 1 the outcome is that of table 5-2, in its words and its shaded rows, for every binary sum and
difference. -/
def Obligations.DecimalArithmeticFollowsTheTable : Prop :=
  ∀ (a b : Nibble) (c : Bool),
    aluAdd true a b c = ⟨(decimalSum (a.toNat + b.toNat + c.toNat)).1, (decimalSum (a.toNat + b.toNat + c.toNat)).2⟩ ∧
    aluSub true a b c =
      ⟨(decimalDiff ((a.toNat : Int) - b.toNat - c.toNat)).1, (decimalDiff ((a.toNat : Int) - b.toNat - c.toNat)).2⟩

/-- R130, R133: decimal numbers of any length are added and subtracted digit by digit through CY. -/
def Obligations.DecimalChainsComputeDecimalNumbers : Prop :=
  ∀ (ds : List (Nibble × Nibble)) (c : Bool), (∀ d ∈ ds, d.1.toNat ≤ 9 ∧ d.2.toNat ≤ 9) →
    (valueOf 10 (addDigits true ds c).1 + (addDigits true ds c).2.toNat * 10 ^ ds.length =
      valueOf 10 (ds.map Prod.fst) + valueOf 10 (ds.map Prod.snd) + c.toNat) ∧
    (valueOf 10 (subDigits true ds c).1 + valueOf 10 (ds.map Prod.snd) + c.toNat =
      valueOf 10 (ds.map Prod.fst) + (subDigits true ds c).2.toNat * 10 ^ ds.length) ∧
    (∀ d ∈ (addDigits true ds c).1, d.toNat ≤ 9) ∧ (∀ d ∈ (subDigits true ds c).1, d.toNat ≤ 9)

/-! ## What each instruction does -/

/-- R135, R137, R139, R141 (Z from the corrected digit: D13, log 23): ADD, ADDC, SUB, SUBC `r, m` complete where register
and `m` can be read, with exactly this next state. -/
def Obligations.ArithmeticRegisterForms : Prop :=
  ∀ (r : Nibble) (m : DAddr) (s : State) (a b : Nibble), dmRead (regAddr r) s = .ok a → dmRead m s = .ok b →
    ∀ p ∈ [(Instr.addRM r m, sumBy s.bcd (a.toNat + b.toNat)),
      (Instr.addcRM r m, sumBy s.bcd (a.toNat + b.toNat + s.cy.toNat)),
      (Instr.subRM r m, diffBy s.bcd ((a.toNat : Int) - b.toNat)),
      (Instr.subcRM r m, diffBy s.bcd ((a.toNat : Int) - b.toNat - s.cy.toNat))],
    exec p.1 s = .next
      { (if s.cmp then afterArith s p.2 else withReg r p.2.2 (afterArith s p.2)) with pc := s.pc + 1 }

/-- R136, R138, R140, R142 (D11 for m = 7FH, log 22; D13, log 23; D24 for a port with CMP = 1, log 24): ADD, ADDC, SUB, SUBC
`m, #n4` complete; with CMP = 1 nothing is stored. -/
def Obligations.ArithmeticMemoryForms : Prop :=
  ∀ (m : DAddr) (n4 : Nibble) (s : State) (a : Nibble), dmRead m s = .ok a →
    ∀ p ∈ [(Instr.addMI m n4, sumBy s.bcd (a.toNat + n4.toNat)),
      (Instr.addcMI m n4, sumBy s.bcd (a.toNat + n4.toNat + s.cy.toNat)),
      (Instr.subMI m n4, diffBy s.bcd ((a.toNat : Int) - n4.toNat)),
      (Instr.subcMI m n4, diffBy s.bcd ((a.toNat : Int) - n4.toNat - s.cy.toNat))],
    (s.cmp = true → exec p.1 s = .next { afterArith s p.2 with pc := s.pc + 1 }) ∧
    (s.cmp = false → ∃ t, StoreEffect m p.2.2 (afterArith s p.2) t ∧ exec p.1 s = .next { t with pc := s.pc + 1 })

/-- R143: arithmetic on the PSW. With CMP = 0 the stored result decides CMP, CY and Z; with CMP = 1 they are the ordinary
outcome; no `r, m` form reaches 7FH (D11, log 22). -/
def Obligations.ArithmeticOnThePsw : Prop :=
  (∀ (n4 : Nibble) (s t : State) (a : Nibble), dmRead 0x7F s = .ok a →
    ∀ p ∈ [(Instr.addMI 0x7F n4, sumBy s.bcd (a.toNat + n4.toNat)),
      (Instr.addcMI 0x7F n4, sumBy s.bcd (a.toNat + n4.toNat + s.cy.toNat)),
      (Instr.subMI 0x7F n4, diffBy s.bcd ((a.toNat : Int) - n4.toNat)),
      (Instr.subcMI 0x7F n4, diffBy s.bcd ((a.toNat : Int) - n4.toNat - s.cy.toNat))],
    exec p.1 s = .next t →
      (s.cmp = false → t.cmp = p.2.2.getLsbD 3 ∧ t.cy = p.2.2.getLsbD 2 ∧ t.z = p.2.2.getLsbD 1) ∧
      (s.cmp = true → t.cmp = true ∧ t.cy = p.2.1 ∧ t.z = zRule p.2.2 true s.z)) ∧
  ∀ r : Nibble, regAddr r ≠ 0x7F

/-- R151, R153, R155 with the truth table of R150: OR, AND, XOR `r, m` complete where register and `m` can be read; stored
whatever CMP is, no flag. -/
def Obligations.LogicRegisterForms : Prop :=
  ∀ (r : Nibble) (m : DAddr) (s : State) (a b : Nibble), dmRead (regAddr r) s = .ok a → dmRead m s = .ok b →
    ∀ p ∈ [(Instr.orRM r m, Bool.or), (Instr.andRM r m, Bool.and), (Instr.xorRM r m, Bool.xor)],
    ∃ v : Nibble, (∀ k < 4, v.getLsbD k = p.2 (a.getLsbD k) (b.getLsbD k)) ∧
      exec p.1 s = .next { withReg r v s with pc := s.pc + 1 }

/-- R152, R154, R156 with the truth table of R150: OR, AND, XOR `m, #n4` complete. -/
def Obligations.LogicMemoryForms : Prop :=
  ∀ (m : DAddr) (n4 : Nibble) (s : State) (a : Nibble), dmRead m s = .ok a →
    ∀ p ∈ [(Instr.orMI m n4, Bool.or), (Instr.andMI m n4, Bool.and), (Instr.xorMI m n4, Bool.xor)],
    ∃ (v : Nibble) (t : State), (∀ k < 4, v.getLsbD k = p.2 (a.getLsbD k) (n4.getLsbD k)) ∧
      StoreEffect m v s t ∧ exec p.1 s = .next { t with pc := s.pc + 1 }

/-- R173, R174, R175: LD, ST and MOV complete. ST and MOV do not read `m`. -/
def Obligations.Transfers : Prop :=
  (∀ (r : Nibble) (m : DAddr) (s : State) (v : Nibble), dmRead m s = .ok v →
    exec (.ld r m) s = .next { withReg r v s with pc := s.pc + 1 }) ∧
  (∀ (m : DAddr) (r : Nibble) (s : State) (v : Nibble), accessible m s = true → dmRead (regAddr r) s = .ok v →
    ∃ t, StoreEffect m v s t ∧ exec (.st m r) s = .next { t with pc := s.pc + 1 }) ∧
  (∀ (m : DAddr) (n4 : Nibble) (s : State), accessible m s = true →
    ∃ t, StoreEffect m n4 s t ∧ exec (.mov m n4) s = .next { t with pc := s.pc + 1 })

/-- R170: RORC completes where the register can be read: "CY -> b3, b3 -> b2, b2 -> b1, b1 -> b0, b0 -> CY", whatever BCD
and CMP are. -/
def Obligations.RotateRightThroughCarry : Prop :=
  ∀ (r : Nibble) (s : State) (a : Nibble), dmRead (regAddr r) s = .ok a → ∃ v : Nibble,
    v.getLsbD 3 = s.cy ∧ v.getLsbD 2 = a.getLsbD 3 ∧ v.getLsbD 1 = a.getLsbD 2 ∧ v.getLsbD 0 = a.getLsbD 1 ∧
    exec (.rorc r) s = .next { withReg r v s with cy := a.getLsbD 0, pc := s.pc + 1 }

/-- R161, R162: SKT and SKF complete on every operand but the CMP bit itself: CMP is reset, CY, Z and BCD stay. -/
def Obligations.BitJudgement : Prop :=
  ∀ (m : DAddr) (n : Nibble) (s : State) (v : Nibble), dmRead m s = .ok v → ¬ (m = 0x7F ∧ n.getLsbD 3 = true) →
    exec (.skt m n) s = .next { s with
      cmp := false, pc := s.pc + 1
      skipPending := s.skipPending || decide (∀ k : Fin 4, n.getLsbD k = true → v.getLsbD k = true) } ∧
    exec (.skf m n) s = .next { s with
      cmp := false, pc := s.pc + 1
      skipPending := s.skipPending || decide (∀ k : Fin 4, n.getLsbD k = true → v.getLsbD k = false) }

/-- R163 (D12, log 12): SKT and SKF on the CMP bit itself, for each value of `SKT_CMP_ORDER`; `either` is the model's choice
and gives one of the two outcomes. -/
def Obligations.BitJudgementOfTheCmpBit : Prop :=
  ∀ (n : Nibble) (s : State), n.getLsbD 3 = true →
    ∀ p ∈ [(Instr.skt 0x7F n, true), (Instr.skf 0x7F n, false)],
    let skips := fun cmp : Bool => cmp = p.2 ∧ (n.getLsbD 2 = true → s.cy = p.2) ∧ (n.getLsbD 1 = true → s.z = p.2) ∧
      (n.getLsbD 0 = true → p.2 = false)
    let after := fun b : Bool => { s with cmp := false, pc := s.pc + 1, skipPending := s.skipPending || b }
    (s.params.sktCmpOrder = .readThenClear → ∃ b, (b = true ↔ skips s.cmp) ∧ exec p.1 s = .next (after b)) ∧
    (s.params.sktCmpOrder = .clearThenRead → ∃ b, (b = true ↔ skips false) ∧ exec p.1 s = .next (after b)) ∧
    (s.params.sktCmpOrder = .fault → exec p.1 s = .fault (.unspecifiedCmpTest s.pc)) ∧
    (s.params.sktCmpOrder = .either →
      ∃ b, ((b = true ↔ skips s.cmp) ∨ (b = true ↔ skips false)) ∧ exec p.1 s = .next (after b))

/-- R164 to R168: SKE, SKNE, SKGE, SKLT complete; they compare unsigned values by the sign of (m) - n4 and change no flag. -/
def Obligations.Comparison : Prop :=
  ∀ (m : DAddr) (n4 : Nibble) (s : State) (v : Nibble), dmRead m s = .ok v →
    ∀ p ∈ [(Instr.ske m n4, decide ((v.toNat : Int) - n4.toNat = 0)),
      (Instr.skne m n4, decide ((v.toNat : Int) - n4.toNat ≠ 0)),
      (Instr.skge m n4, decide (¬ (v.toNat : Int) - n4.toNat < 0)),
      (Instr.sklt m n4, decide ((v.toNat : Int) - n4.toNat < 0))],
    exec p.1 s = .next { s with skipPending := s.skipPending || p.2, pc := s.pc + 1 }

/-- R181, R182: BR and, with the stack empty, CALL complete; the return address is that after the CALL (D2, log 17). -/
def Obligations.BranchAndCall : Prop :=
  ∀ (addr : BitVec 11) (s : State), addr.toNat < 512 →
    exec (.br addr) s = .next { s with pc := BitVec.ofNat 9 addr.toNat } ∧
    (s.depth = 0 → exec (.call addr) s =
      .next { s with asr := s.pc + 1, depth := 1, pc := BitVec.ofNat 9 addr.toNat })

/-- R183, R184: RET and RETSK complete with a return address on the stack; ASR keeps its value. -/
def Obligations.Returns : Prop :=
  ∀ s : State, s.depth = 1 →
    exec .ret s = .next { s with pc := s.asr, depth := 0 } ∧
    exec .retsk s = .next { s with pc := s.asr, depth := 0, skipPending := true }

/-- R182 to R184: a subroutine that leaves the stack alone returns to the word after its CALL, and with RETSK skips it. -/
def Obligations.ReturnGoesBehindTheCall : Prop :=
  ∀ (addr : BitVec 11) (s t u v : State), exec (.call addr) s = .next t → u.asr = t.asr → u.depth = t.depth →
    (exec .ret u = .next v → v.pc = s.pc + 1 ∧ v.depth = s.depth ∧ v.skipPending = u.skipPending) ∧
    (exec .retsk u = .next v → v.pc = s.pc + 1 ∧ v.depth = s.depth ∧ v.skipPending = true)

/-- R190, R191, R192, R232: NOP, HALT and STOP complete. STOP 0000B initialises the chip and keeps RAM and output latches. -/
def Obligations.NopHaltStop : Prop :=
  ∀ s : State,
    exec .nop s = .next { s with pc := s.pc + 1 } ∧
    exec (.halt 0) s = .next { s with pc := s.pc + 1, run := .halt false } ∧
    (pinLevel s .p0b0 = false → exec (.halt 1) s = .next { s with pc := s.pc + 1, run := .halt true }) ∧
    (pinLevel s .p0b0 = true → exec (.halt 1) s = .next { s with pc := s.pc + 1 }) ∧
    (pinLevel s .p0b1 = false → exec (.stop 1) s = .next { s with pc := s.pc + 1, run := .stop true }) ∧
    (pinLevel s .p0b1 = true → exec (.stop 1) s = .next { s with pc := s.pc + 1 }) ∧
    ∃ t, exec (.stop 0) s = .next t ∧ Initialised t ∧ t.run = .stop false ∧ t.ram = s.ram ∧ t.ramWritten = s.ramWritten ∧
      t.latchB = s.latchB ∧ t.latchC = s.latchC ∧ t.latchD = s.latchD ∧ SameFixed s t ∧
      ∀ q : Nibble, dmRead (regAddr q) t = dmRead (regAddr q) s

/-- The model faults of R222 that instructions raise: the stack (D3, log 18), operand bits that must be 0 (D7, D8, log 20),
and, under UNDEFINED_READ = fault, the first operand that is a RAM nibble not yet written (R26, D15, log 6). By R222 an
operand address in 10H-70H comes before it. -/
def Obligations.StackAndOperandFaults : Prop :=
  ∀ s : State,
    (s.params.undefinedRead = .fault → ∀ (i : Instr) (a : DAddr), (readAddrs i).find? (unwritten s) = some a →
      (∀ m, operandAddr i = some m → accessible m s = true) → exec i s = .fault (.undefinedRead a)) ∧
    (s.depth = 1 → ∀ addr : BitVec 11, addr.toNat < 512 → exec (.call addr) s = .fault (.stackOverflow s.pc)) ∧
    (s.depth = 0 → exec .ret s = .fault (.stackUnderflow s.pc) ∧ exec .retsk s = .fault (.stackUnderflow s.pc)) ∧
    (∀ addr : BitVec 11, 512 ≤ addr.toNat → ∀ i ∈ [Instr.br addr, Instr.call addr],
      exec i s = .fault (.illegalEncoding s.pc (some (encode i)))) ∧
    (∀ x : Nibble, 2 ≤ x.toNat → ∀ i ∈ [Instr.halt x, Instr.stop x],
      exec i s = .fault (.illegalEncoding s.pc (some (encode i))))

/-- R65 with UNMAPPED_DM = fault (D9, log 11): every instruction with an operand in 10H-70H faults, whatever its kind. -/
def Obligations.UnmappedOperandFaults : Prop :=
  ∀ (i : Instr) (m : DAddr) (s : State), operandAddr i = some m → 0x10 ≤ m.toNat → m.toNat ≤ 0x70 →
    s.params.unmappedDm = .fault → exec i s = .fault (.unmappedDataMemory m)

/-- Where the model stops, and nowhere else: no instruction is refused, and one raises a fault exactly if its operand bits
that must be 0 are not (R109, R110 by D7, D8, log 20), its operand `m` is in 10H-70H under UNMAPPED_DM = fault (R65, D9,
log 11), it reads a RAM nibble not yet written under UNDEFINED_READ = fault (R26, D15, log 6), it is CALL with the stack full
or RET or RETSK with the stack empty (D3, log 18), or it is SKT or SKF on the CMP bit itself under SKT_CMP_ORDER = fault
(R163, D12, log 12). Everywhere else it completes. That State.reset takes UNDEFINED_READ = any_value (log 6) and
SKT_CMP_ORDER = either (log 12), and not the spec's defaults, is the model's choice; the statement is about every value. -/
def Obligations.NoInstructionIsRefused : Prop :=
  ∀ (i : Instr) (s : State),
    (∀ r, exec i s ≠ .refused r) ∧
    ((∃ f, exec i s = .fault f) ↔
      i.wf = false ∨
      (∃ m, operandAddr i = some m ∧ 0x10 ≤ m.toNat ∧ m.toNat ≤ 0x70 ∧ s.params.unmappedDm = .fault) ∨
      (s.params.undefinedRead = .fault ∧ ∃ a ∈ readAddrs i, unwritten s a = true) ∨
      ((∃ addr, i = .call addr) ∧ s.depth = 1) ∨
      ((i = .ret ∨ i = .retsk) ∧ s.depth = 0) ∨
      (∃ n : Nibble, (i = .skt 0x7F n ∨ i = .skf 0x7F n) ∧ n.getLsbD 3 = true ∧ s.params.sktCmpOrder = .fault))

/-! ## Frames -/

/-- What the `m, #n4` forms, ST and MOV leave unchanged, by the address `m` they store to (R33, R71, R134, R150, R172). -/
def Obligations.StoringFormsFrame : Prop :=
  ∀ (i : Instr) (m : DAddr) (s t : State), storeAddr i = some m → exec i s = .next t →
    SameControl s t ∧ t.pc = s.pc + 1 ∧
    (∀ q : Nibble, regAddr q ≠ m → regOf q t = regOf q s ∧ writtenReg q t = writtenReg q s) ∧
    (m ≠ 0x7E → t.bcd = s.bcd) ∧ (m ≠ 0x7F → t.cmp = s.cmp) ∧
    (m ≠ 0x7F → isArith i = false → t.cy = s.cy ∧ t.z = s.z) ∧
    (m ≠ 0x71 → t.latchB = s.latchB ∧ t.modeB = s.modeB) ∧
    (m ≠ 0x72 → t.latchC = s.latchC ∧ t.modeC = s.modeC) ∧
    (m ≠ 0x73 → t.latchD = s.latchD ∧ t.modeD = s.modeD) ∧
    ReadsAsBefore (fun a => a == m || (isArith i && a == 0x7F)) s t ∧
    (isArith i = true → s.cmp = true →
      t.ram = s.ram ∧ t.ramWritten = s.ramWritten ∧ SamePorts s t ∧ t.bcd = s.bcd ∧ t.cmp = s.cmp ∧
      ReadsAsBefore (fun a => a == 0x7F) s t)

/-- What the `r, m` forms, LD and RORC leave unchanged: all but the register, and CY and Z where the instruction writes
them (R134, R150, R170, R172). -/
def Obligations.RegisterFormsFrame : Prop :=
  ∀ (i : Instr) (r : Nibble) (s t : State), destReg i = some r → exec i s = .next t →
    SameControl s t ∧ t.pc = s.pc + 1 ∧ SamePorts s t ∧ t.bcd = s.bcd ∧ t.cmp = s.cmp ∧
    (∀ q : Nibble, q ≠ r → regOf q t = regOf q s ∧ writtenReg q t = writtenReg q s) ∧
    (isArith i = false → t.z = s.z) ∧ (isArith i = false → i ≠ .rorc r → t.cy = s.cy) ∧
    ReadsAsBefore (fun a => a == regAddr r || ((isArith i || i == .rorc r) && a == 0x7F)) s t ∧
    (isArith i = true → s.cmp = true →
      t.ram = s.ram ∧ t.ramWritten = s.ramWritten ∧ ReadsAsBefore (fun a => a == 0x7F) s t)

/-- What the six skip instructions leave unchanged: all but the skip flag, and CMP for SKT and SKF (R160 to R164). -/
def Obligations.SkipInstructionsFrame : Prop :=
  ∀ (m : DAddr) (n : Nibble) (s t : State),
    (∀ i ∈ [Instr.skt m n, Instr.skf m n], exec i s = .next t →
      t = { s with pc := s.pc + 1, cmp := false, skipPending := t.skipPending } ∧
      ReadsAsBefore (fun a => a == 0x7F) s t) ∧
    (∀ i ∈ [Instr.ske m n, Instr.skne m n, Instr.skge m n, Instr.sklt m n], exec i s = .next t →
      t = { s with pc := s.pc + 1, skipPending := t.skipPending } ∧ ReadsAsBefore (fun _ => false) s t)

/-- What BR, CALL, RET, RETSK, NOP, HALT and STOP 0001B leave unchanged: RAM, flags, ports and every read; and which of
them touches stack, skip flag and run mode (R180, R190 to R192). -/
def Obligations.ControlInstructionsFrame : Prop :=
  ∀ (addr : BitVec 11) (x : Nibble) (s t : State),
    ∀ i ∈ [Instr.br addr, Instr.call addr, Instr.ret, Instr.retsk, Instr.nop, Instr.halt x, Instr.stop 1],
    exec i s = .next t →
      t.ram = s.ram ∧ t.ramWritten = s.ramWritten ∧ SameFlags s t ∧ SamePorts s t ∧ SameFixed s t ∧
      ReadsAsBefore (fun _ => false) s t ∧
      (i ≠ .call addr → t.asr = s.asr) ∧
      (i ≠ .call addr → i ≠ .ret → i ≠ .retsk → t.depth = s.depth) ∧
      (i ≠ .retsk → t.skipPending = s.skipPending) ∧
      (i ≠ .halt x → i ≠ .stop 1 → t.run = s.run)

/-! ## Rules about the whole machine -/

/-- R31: no instruction changes Z but ADD, ADDC, SUB, SUBC and a direct write to 7FH. R32: none changes CY but those and
RORC. STOP 0000B clears both (R192). -/
def Obligations.OnlyArithmeticAndRotationChangeZAndCy : Prop :=
  ∀ (i : Instr) (s t : State), exec i s = .next t →
    (t.z ≠ s.z → isArith i = true ∨ storeAddr i = some 0x7F ∨ isStopReset i) ∧
    (t.cy ≠ s.cy → isArith i = true ∨ (∃ r, i = .rorc r) ∨ storeAddr i = some 0x7F ∨ isStopReset i)

/-- R33: no instruction changes CMP but SKT and SKF, which reset it, and a direct write to 7FH; STOP 0000B clears it. -/
def Obligations.OnlyJudgementResetsCmp : Prop :=
  ∀ (i : Instr) (s t : State), exec i s = .next t → t.cmp ≠ s.cmp →
    ((∃ m n, i = .skt m n ∨ i = .skf m n) ∧ t.cmp = false) ∨ storeAddr i = some 0x7F ∨ isStopReset i

/-- R34: BCD changes only by a write to 7EH; STOP 0000B clears it (R192). -/
def Obligations.OnlyAWriteChangesBcd : Prop :=
  ∀ (i : Instr) (s t : State), exec i s = .next t → t.bcd ≠ s.bcd → storeAddr i = some 0x7E ∨ isStopReset i

/-- R67: "No instruction returns a port to input mode; only reset and STOP 0000B do", over steps; and no instruction turns
a port to output but one that stores to its register address. -/
def Obligations.PortDirectionRule : Prop :=
  (∀ s t : State, step s = .next t → resetLevel s = true →
    s.modeB = .output ∧ t.modeB = .input ∨ s.modeC = .output ∧ t.modeC = .input ∨ s.modeD = .output ∧ t.modeD = .input →
    s.run = .operating ∧ s.skipPending = false ∧ fetchInstr s = .ok (.stop 0)) ∧
  (∀ (i : Instr) (s t : State), exec i s = .next t →
    (s.modeB = .input → t.modeB = .output → storeAddr i = some 0x71) ∧
    (s.modeC = .input → t.modeC = .output → storeAddr i = some 0x72) ∧
    (s.modeD = .input → t.modeD = .output → storeAddr i = some 0x73))

/-- R27: no instruction writes the stack but CALL, RET and RETSK; STOP 0000B empties it (D4, log 5). -/
def Obligations.OnlyCallAndReturnsTouchTheStack : Prop :=
  ∀ (i : Instr) (s t : State), exec i s = .next t → t.asr ≠ s.asr ∨ t.depth ≠ s.depth →
    (∃ addr, i = .call addr) ∨ i = .ret ∨ i = .retsk ∨ isStopReset i

/-- R180: pc departs from A + 1 only by BR, CALL, RET, RETSK and, returning to the reset state, STOP 0000B (R192). -/
def Obligations.OnlyTransfersLeaveTheNextAddress : Prop :=
  ∀ (i : Instr) (s t : State), exec i s = .next t → t.pc ≠ s.pc + 1 → redirects i

/-- R227: an instruction leaves the operating mode only if it is HALT or STOP. -/
def Obligations.OnlyHaltAndStopLeaveOperation : Prop :=
  ∀ (i : Instr) (s t : State), exec i s = .next t → t.run ≠ s.run → (∃ x, i = .halt x) ∨ ∃ x, i = .stop x

/-- R38: the latch of a port in input mode is never read and never driven. Two states that differ only in latches of ports
in input mode behave alike, and still differ in latches at most, and not even there once the port is an output. -/
def Obligations.LatchOfAnInputPortIsUnobservable : Prop :=
  ∀ (i : Instr) (s : State) (vB : BitVec 3) (vC vD : Nibble),
    (s.modeB = .output → vB = s.latchB) → (s.modeC = .output → vC = s.latchC) → (s.modeD = .output → vD = s.latchD) →
    (∀ t, exec i s = .next t → ∃ wB wC wD,
      exec i { s with latchB := vB, latchC := vC, latchD := vD } = .next { t with latchB := wB, latchC := wC, latchD := wD } ∧
      (t.modeB = .output → wB = t.latchB) ∧ (t.modeC = .output → wC = t.latchC) ∧ (t.modeD = .output → wD = t.latchD)) ∧
    (∀ f, exec i s = .fault f → exec i { s with latchB := vB, latchC := vC, latchD := vD } = .fault f)

/-- D4 (log 5): with the stack empty the value of ASR cannot be observed. -/
def Obligations.AsrOfAnEmptyStackIsUnobservable : Prop :=
  ∀ (i : Instr) (s : State) (v : PAddr), s.depth = 0 →
    (∀ t, exec i s = .next t → ∃ w, exec i { s with asr := v } = .next { t with asr := w } ∧ (t.depth = 1 → w = t.asr)) ∧
    (∀ f, exec i s = .fault f → exec i { s with asr := v } = .fault f)

/-! ## Steps -/

/-- A step runs the decoded instruction: with RESET high, in operating mode, with nothing to skip, when the word at pc
decodes to `i`, the step is `exec i`, after which the next pin sample comes into force. -/
def Obligations.StepRunsTheDecodedInstruction : Prop :=
  ∀ (s : State) (w : Word) (i : Instr), resetLevel s = true → s.run = .operating → s.skipPending = false →
    s.rom.read s.pc.toNat = some w → decode w = .ok i →
    (∀ t, exec i s = .next t →
      step s = .next { t with pins := t.inputs.headD t.pins, inputs := t.inputs.tail, time := t.time + 1 }) ∧
    (∀ f, exec i s = .fault f → step s = .fault f)

/-- R108 to R110, D16 (logs 1, 20): a word that is no instruction, or no word at all, is the fault `IllegalEncoding`. -/
def Obligations.StepFaultsOnWhatIsNoInstruction : Prop :=
  ∀ s : State, resetLevel s = true → s.run = .operating → s.skipPending = false →
    (∀ w e, s.rom.read s.pc.toNat = some w → decode w = .error e → step s = .fault (.illegalEncoding s.pc (some w))) ∧
    (s.rom.read s.pc.toNat = none → step s = .fault (.illegalEncoding s.pc none))

/-- R39: a pending skip: whatever the word at pc is, nothing but pc changes and the flag returns to 0. -/
def Obligations.StepSkipsThePendingSlot : Prop :=
  ∀ s : State, resetLevel s = true → s.run = .operating → s.skipPending = true →
    step s = .next { s with
      pc := s.pc + 1, skipPending := false
      pins := s.inputs.headD s.pins, inputs := s.inputs.tail, time := s.time + 1 }

/-- The word that `withFetchWord` places is what the next step runs (log 2), and the ROM keeps its canonical form. -/
def Obligations.PlacedWordIsRunNext : Prop :=
  ∀ (s : State) (w : Word) (i : Instr), decode w = .ok i →
    step (s.withFetchWord 16 w.toNat) = tickOut (exec i (s.withFetchWord 16 w.toNat)) ∧
    (s.withFetchWord 16 w.toNat).pc = s.pc ∧ (s.withFetchWord 16 w.toNat).ram = s.ram ∧
    (s.rom.wf = true → (s.withFetchWord 16 w.toNat).rom.wf = true)

/-- R261, R224: RESET low in operating mode (kind A; in the waits by log 15): the chip is initialised, whatever else
happens; RAM and latches become free values and no nibble counts as written (log 6). -/
def Obligations.ResetDuringOperation : Prop :=
  ∀ s : State, resetLevel s = false → s.run = .operating ∨ s.run = .wait →
    ∃ t, step s = .next t ∧ Initialised t ∧ t.run = .reset ∧ t.rom = s.rom ∧ t.params = s.params ∧
      (∀ k : Fin 16, t.ram[k] = Config.undefinedRam s.time k ∧ t.ramWritten[k] = false) ∧
      t.latchB = Config.undefinedLatchB s.time ∧ t.latchC = Config.undefinedLatchC s.time ∧
      t.latchD = Config.undefinedLatchD s.time

/-- R261, R224: RESET low in HALT or STOP mode (kind B), also with a release level on P0B0 or P0B1: initialised, but RAM and
latches keep their data. -/
def Obligations.ResetDuringStandbyKeepsData : Prop :=
  ∀ (s : State) (b : Bool), resetLevel s = false → s.run = .halt b ∨ s.run = .stop b →
    ∃ t, step s = .next t ∧ Initialised t ∧ t.run = .reset ∧ t.rom = s.rom ∧ t.params = s.params ∧
      t.ram = s.ram ∧ t.ramWritten = s.ramWritten ∧ t.latchB = s.latchB ∧ t.latchC = s.latchC ∧ t.latchD = s.latchD

/-- R227, row "reset": while RESET stays low the chip is held as it is. -/
def Obligations.HeldWhileResetIsLow : Prop :=
  ∀ s : State, resetLevel s = false → s.run = .reset →
    step s = .next { s with pins := s.inputs.headD s.pins, inputs := s.inputs.tail, time := s.time + 1 }

/-- R260: when RESET returns high, after the wait, execution starts at 000H with PSWORD 0 and all ports inputs; RAM and
latches are what the reset left. The premise `Inv` rules out states no run reaches. -/
def Obligations.ExecutionStartsAt000AfterReset : Prop :=
  ∀ s : State, Inv s → s.run = .reset → resetLevel s = true →
    ∃ t, step s = .next t ∧ t.run = .wait ∧
      (resetLevel t = true → ∃ u, step t = .next u ∧ u.run = .operating ∧ Initialised u ∧ u.ram = s.ram ∧
        u.ramWritten = s.ramWritten ∧
        u.latchB = s.latchB ∧ u.latchC = s.latchC ∧ u.latchD = s.latchD)

/-- R228, R229: HALT mode of HALT 0001B with RESET high: left for operation exactly by a high level at P0B0 (D19, log 14);
nothing else changes, so execution continues after the HALT. -/
def Obligations.HaltReleaseByPin : Prop :=
  ∀ s : State, s.run = .halt true → resetLevel s = true →
    step s = .next { s with
      run := if pinLevel s .p0b0 then .operating else .halt true
      pins := s.inputs.headD s.pins, inputs := s.inputs.tail, time := s.time + 1 }

/-- R230, R231, R233: STOP mode of STOP 0001B with RESET high: left exactly by a high level at P0B1, by way of the wait of
8 clocks, in which nothing changes (log 14). -/
def Obligations.StopReleaseByPin : Prop :=
  ∀ s : State, resetLevel s = true →
    (s.run = .stop true → step s = .next { s with
      run := if pinLevel s .p0b1 then .wait else .stop true
      pins := s.inputs.headD s.pins, inputs := s.inputs.tail, time := s.time + 1 }) ∧
    (s.run = .wait → step s = .next { s with
      run := .operating
      pins := s.inputs.headD s.pins, inputs := s.inputs.tail, time := s.time + 1 })

/-- R229, R231: "Only the reset signal releases it": without a reset, HALT 0000B and STOP 0000B rest for ever with all
state kept, whatever the port pins do. -/
def Obligations.OnlyResetEndsHalt0AndStop0 : Prop :=
  ∀ (k : Nat) (s : State), Finished s → NeverReset s →
    ∃ t, Host.Core.run Sys2Proof.core k s = .next t ∧
      t = { s with pins := t.pins, inputs := t.inputs, time := s.time + k }

/-- R36: the PSWORD is 0 after any reset and after STOP 0000B; HALT mode and STOP 0001B keep it. -/
def Obligations.PswordIsZeroAfterResetAndKeptInStandby : Prop :=
  (State.reset.bcd = false ∧ State.reset.cmp = false ∧ State.reset.cy = false ∧ State.reset.z = false) ∧
  (∀ s t : State, resetLevel s = false → s.run ≠ .reset → step s = .next t →
    t.bcd = false ∧ t.cmp = false ∧ t.cy = false ∧ t.z = false) ∧
  (∀ s t : State, exec (.stop 0) s = .next t → t.bcd = false ∧ t.cmp = false ∧ t.cy = false ∧ t.z = false) ∧
  (∀ s t : State, ∀ i ∈ [Instr.halt 0, Instr.halt 1, Instr.stop 1], exec i s = .next t → SameFlags s t) ∧
  (∀ (s t : State) (b : Bool), resetLevel s = true → s.run = .halt b ∨ s.run = .stop b → step s = .next t → SameFlags s t)

/-- R42, R261: what the spec states of the state after reset. RAM, latches and ASR are the model's choice (logs 3 to 5) and
are not stated. -/
def Obligations.ResetStateIsTheSpecs : Prop :=
  State.reset.pc = 0x000 ∧ Initialised State.reset ∧ State.reset.run = .operating ∧
  dmRead 0x7E State.reset = .ok 0 ∧ dmRead 0x7F State.reset = .ok 0 ∧ dmRead 0x74 State.reset = .ok 0

/-- The invariant holds at reset. -/
def Obligations.ResetStateMeetsTheInvariant : Prop := Inv State.reset

/-- Every step keeps the invariant: the ROM's canonical form, no skip pending outside operation, and the initialised state
while RESET is low and after STOP 0000B. -/
def Obligations.StepKeepsTheInvariant : Prop :=
  ∀ s t : State, Inv s → step s = .next t → Inv t

/-- R61, R82: no run, of any length, changes the mask ROM or the parameters. -/
def Obligations.NoRunChangesTheRom : Prop :=
  ∀ (k : Nat) (s t : State), Host.Core.run Sys2Proof.core k s = .next t → t.rom = s.rom ∧ t.params = s.params
end

