-- ==== Sys2Proof/Laws/Encoding.lean ====
section
/-! SUPPORT. The fields of a packed word, and a word from its fields. -/

namespace Sys2Proof

@[simp] theorem opField_packOp (op : BitVec 5) (mid : BitVec 7) (low : BitVec 4) : opField (packOp op mid low) = op := by
  ext i hi
  simp only [opField, packOp, BitVec.getElem_extractLsb', BitVec.getLsbD_append]
  split
  · omega
  · split
    · omega
    · simp [show 11 + i - 4 - 7 = i by omega, hi]

@[simp] theorem mField_packOp (op : BitVec 5) (mid : BitVec 7) (low : BitVec 4) : mField (packOp op mid low) = mid := by
  ext i hi
  simp only [mField, packOp, BitVec.getElem_extractLsb', BitVec.getLsbD_append]
  split
  · omega
  · simp [show 4 + i - 4 = i by omega, hi]

@[simp] theorem lowField_packOp (op : BitVec 5) (mid : BitVec 7) (low : BitVec 4) : lowField (packOp op mid low) = low := by
  ext i hi
  simp only [lowField, packOp, BitVec.getElem_extractLsb', BitVec.getLsbD_append]
  simp [hi]

@[simp] theorem opField_packAddr (op : BitVec 5) (addr : BitVec 11) : opField (packAddr op addr) = op := by
  ext i hi
  simp only [opField, packAddr, BitVec.getElem_extractLsb', BitVec.getLsbD_append]
  split
  · omega
  · simp [show 11 + i - 11 = i by omega, hi]

@[simp] theorem addrField_packAddr (op : BitVec 5) (addr : BitVec 11) : addrField (packAddr op addr) = addr := by
  ext i hi
  simp only [addrField, packAddr, BitVec.getElem_extractLsb', BitVec.getLsbD_append]
  simp [hi]

/-- A word is made of its three fields (R101, R104). -/
theorem packOp_fields (w : Word) : packOp (opField w) (mField w) (lowField w) = w := by
  apply BitVec.eq_of_getLsbD_eq
  intro i hi
  simp only [packOp, opField, mField, lowField, BitVec.getLsbD_append, BitVec.getLsbD_extractLsb']
  by_cases h4 : i < 4
  · simp [h4]
  · by_cases h11 : i - 4 < 7
    · simp [h4, h11, show 4 + (i - 4) = i by omega]
    · simp [h4, h11, show 11 + (i - 4 - 7) = i by omega, show i - 4 - 7 < 5 by omega]

/-- A word is made of its operation code and its 11-bit operand (R101, R104). -/
theorem packAddr_fields (w : Word) : packAddr (opField w) (addrField w) = w := by
  apply BitVec.eq_of_getLsbD_eq
  intro i hi
  simp only [packAddr, opField, addrField, BitVec.getLsbD_append, BitVec.getLsbD_extractLsb']
  by_cases h11 : i < 11
  · simp [h11]
  · simp [h11, show 11 + (i - 11) = i by omega, show i - 11 < 5 by omega]

end Sys2Proof
end

