-- ==== Sys2Proof/Laws/State.lean ====
section
/-! SUPPORT. One lemma per field per update of the state, so that no proof unfolds a record update. -/

namespace Sys2Proof.Machine.State

variable (s : State)

/-! `setPc` -/

@[simp] theorem setPc_pc (a : PAddr) : (s.setPc a).pc = a := rfl
@[simp] theorem setPc_asr (a : PAddr) : (s.setPc a).asr = s.asr := rfl
@[simp] theorem setPc_depth (a : PAddr) : (s.setPc a).depth = s.depth := rfl
@[simp] theorem setPc_ram (a : PAddr) : (s.setPc a).ram = s.ram := rfl
@[simp] theorem setPc_ramWritten (a : PAddr) : (s.setPc a).ramWritten = s.ramWritten := rfl
@[simp] theorem setPc_bcd (a : PAddr) : (s.setPc a).bcd = s.bcd := rfl
@[simp] theorem setPc_cmp (a : PAddr) : (s.setPc a).cmp = s.cmp := rfl
@[simp] theorem setPc_cy (a : PAddr) : (s.setPc a).cy = s.cy := rfl
@[simp] theorem setPc_z (a : PAddr) : (s.setPc a).z = s.z := rfl
@[simp] theorem setPc_latchB (a : PAddr) : (s.setPc a).latchB = s.latchB := rfl
@[simp] theorem setPc_latchC (a : PAddr) : (s.setPc a).latchC = s.latchC := rfl
@[simp] theorem setPc_latchD (a : PAddr) : (s.setPc a).latchD = s.latchD := rfl
@[simp] theorem setPc_modeB (a : PAddr) : (s.setPc a).modeB = s.modeB := rfl
@[simp] theorem setPc_modeC (a : PAddr) : (s.setPc a).modeC = s.modeC := rfl
@[simp] theorem setPc_modeD (a : PAddr) : (s.setPc a).modeD = s.modeD := rfl
@[simp] theorem setPc_skipPending (a : PAddr) : (s.setPc a).skipPending = s.skipPending := rfl
@[simp] theorem setPc_run (a : PAddr) : (s.setPc a).run = s.run := rfl
@[simp] theorem setPc_rom (a : PAddr) : (s.setPc a).rom = s.rom := rfl
@[simp] theorem setPc_params (a : PAddr) : (s.setPc a).params = s.params := rfl
@[simp] theorem setPc_pins (a : PAddr) : (s.setPc a).pins = s.pins := rfl
@[simp] theorem setPc_inputs (a : PAddr) : (s.setPc a).inputs = s.inputs := rfl
@[simp] theorem setPc_time (a : PAddr) : (s.setPc a).time = s.time := rfl

/-! `advancePc` -/

@[simp] theorem advancePc_pc : s.advancePc.pc = s.pc + 1 := rfl
@[simp] theorem advancePc_asr : s.advancePc.asr = s.asr := rfl
@[simp] theorem advancePc_depth : s.advancePc.depth = s.depth := rfl
@[simp] theorem advancePc_ram : s.advancePc.ram = s.ram := rfl
@[simp] theorem advancePc_ramWritten : s.advancePc.ramWritten = s.ramWritten := rfl
@[simp] theorem advancePc_bcd : s.advancePc.bcd = s.bcd := rfl
@[simp] theorem advancePc_cmp : s.advancePc.cmp = s.cmp := rfl
@[simp] theorem advancePc_cy : s.advancePc.cy = s.cy := rfl
@[simp] theorem advancePc_z : s.advancePc.z = s.z := rfl
@[simp] theorem advancePc_latchB : s.advancePc.latchB = s.latchB := rfl
@[simp] theorem advancePc_latchC : s.advancePc.latchC = s.latchC := rfl
@[simp] theorem advancePc_latchD : s.advancePc.latchD = s.latchD := rfl
@[simp] theorem advancePc_modeB : s.advancePc.modeB = s.modeB := rfl
@[simp] theorem advancePc_modeC : s.advancePc.modeC = s.modeC := rfl
@[simp] theorem advancePc_modeD : s.advancePc.modeD = s.modeD := rfl
@[simp] theorem advancePc_skipPending : s.advancePc.skipPending = s.skipPending := rfl
@[simp] theorem advancePc_run : s.advancePc.run = s.run := rfl
@[simp] theorem advancePc_rom : s.advancePc.rom = s.rom := rfl
@[simp] theorem advancePc_params : s.advancePc.params = s.params := rfl
@[simp] theorem advancePc_pins : s.advancePc.pins = s.pins := rfl
@[simp] theorem advancePc_inputs : s.advancePc.inputs = s.inputs := rfl
@[simp] theorem advancePc_time : s.advancePc.time = s.time := rfl

/-! `setFlags` -/

@[simp] theorem setFlags_pc (b c d e : Bool) : (s.setFlags b c d e).pc = s.pc := rfl
@[simp] theorem setFlags_asr (b c d e : Bool) : (s.setFlags b c d e).asr = s.asr := rfl
@[simp] theorem setFlags_depth (b c d e : Bool) : (s.setFlags b c d e).depth = s.depth := rfl
@[simp] theorem setFlags_ram (b c d e : Bool) : (s.setFlags b c d e).ram = s.ram := rfl
@[simp] theorem setFlags_ramWritten (b c d e : Bool) : (s.setFlags b c d e).ramWritten = s.ramWritten := rfl
@[simp] theorem setFlags_bcd (b c d e : Bool) : (s.setFlags b c d e).bcd = b := rfl
@[simp] theorem setFlags_cmp (b c d e : Bool) : (s.setFlags b c d e).cmp = c := rfl
@[simp] theorem setFlags_cy (b c d e : Bool) : (s.setFlags b c d e).cy = d := rfl
@[simp] theorem setFlags_z (b c d e : Bool) : (s.setFlags b c d e).z = e := rfl
@[simp] theorem setFlags_latchB (b c d e : Bool) : (s.setFlags b c d e).latchB = s.latchB := rfl
@[simp] theorem setFlags_latchC (b c d e : Bool) : (s.setFlags b c d e).latchC = s.latchC := rfl
@[simp] theorem setFlags_latchD (b c d e : Bool) : (s.setFlags b c d e).latchD = s.latchD := rfl
@[simp] theorem setFlags_modeB (b c d e : Bool) : (s.setFlags b c d e).modeB = s.modeB := rfl
@[simp] theorem setFlags_modeC (b c d e : Bool) : (s.setFlags b c d e).modeC = s.modeC := rfl
@[simp] theorem setFlags_modeD (b c d e : Bool) : (s.setFlags b c d e).modeD = s.modeD := rfl
@[simp] theorem setFlags_skipPending (b c d e : Bool) : (s.setFlags b c d e).skipPending = s.skipPending := rfl
@[simp] theorem setFlags_run (b c d e : Bool) : (s.setFlags b c d e).run = s.run := rfl
@[simp] theorem setFlags_rom (b c d e : Bool) : (s.setFlags b c d e).rom = s.rom := rfl
@[simp] theorem setFlags_params (b c d e : Bool) : (s.setFlags b c d e).params = s.params := rfl
@[simp] theorem setFlags_pins (b c d e : Bool) : (s.setFlags b c d e).pins = s.pins := rfl
@[simp] theorem setFlags_inputs (b c d e : Bool) : (s.setFlags b c d e).inputs = s.inputs := rfl
@[simp] theorem setFlags_time (b c d e : Bool) : (s.setFlags b c d e).time = s.time := rfl

/-! `setRam` -/

@[simp] theorem setRam_pc (i : Fin 16) (v : Nibble) : (s.setRam i v).pc = s.pc := rfl
@[simp] theorem setRam_asr (i : Fin 16) (v : Nibble) : (s.setRam i v).asr = s.asr := rfl
@[simp] theorem setRam_depth (i : Fin 16) (v : Nibble) : (s.setRam i v).depth = s.depth := rfl
@[simp] theorem setRam_ram (i : Fin 16) (v : Nibble) : (s.setRam i v).ram = s.ram.set i v := rfl
@[simp] theorem setRam_ramWritten (i : Fin 16) (v : Nibble) : (s.setRam i v).ramWritten = s.ramWritten.set i true := rfl
@[simp] theorem setRam_bcd (i : Fin 16) (v : Nibble) : (s.setRam i v).bcd = s.bcd := rfl
@[simp] theorem setRam_cmp (i : Fin 16) (v : Nibble) : (s.setRam i v).cmp = s.cmp := rfl
@[simp] theorem setRam_cy (i : Fin 16) (v : Nibble) : (s.setRam i v).cy = s.cy := rfl
@[simp] theorem setRam_z (i : Fin 16) (v : Nibble) : (s.setRam i v).z = s.z := rfl
@[simp] theorem setRam_latchB (i : Fin 16) (v : Nibble) : (s.setRam i v).latchB = s.latchB := rfl
@[simp] theorem setRam_latchC (i : Fin 16) (v : Nibble) : (s.setRam i v).latchC = s.latchC := rfl
@[simp] theorem setRam_latchD (i : Fin 16) (v : Nibble) : (s.setRam i v).latchD = s.latchD := rfl
@[simp] theorem setRam_modeB (i : Fin 16) (v : Nibble) : (s.setRam i v).modeB = s.modeB := rfl
@[simp] theorem setRam_modeC (i : Fin 16) (v : Nibble) : (s.setRam i v).modeC = s.modeC := rfl
@[simp] theorem setRam_modeD (i : Fin 16) (v : Nibble) : (s.setRam i v).modeD = s.modeD := rfl
@[simp] theorem setRam_skipPending (i : Fin 16) (v : Nibble) : (s.setRam i v).skipPending = s.skipPending := rfl
@[simp] theorem setRam_run (i : Fin 16) (v : Nibble) : (s.setRam i v).run = s.run := rfl
@[simp] theorem setRam_rom (i : Fin 16) (v : Nibble) : (s.setRam i v).rom = s.rom := rfl
@[simp] theorem setRam_params (i : Fin 16) (v : Nibble) : (s.setRam i v).params = s.params := rfl
@[simp] theorem setRam_pins (i : Fin 16) (v : Nibble) : (s.setRam i v).pins = s.pins := rfl
@[simp] theorem setRam_inputs (i : Fin 16) (v : Nibble) : (s.setRam i v).inputs = s.inputs := rfl
@[simp] theorem setRam_time (i : Fin 16) (v : Nibble) : (s.setRam i v).time = s.time := rfl

/-! `drivePortB` -/

@[simp] theorem drivePortB_pc (v : BitVec 3) : (s.drivePortB v).pc = s.pc := rfl
@[simp] theorem drivePortB_asr (v : BitVec 3) : (s.drivePortB v).asr = s.asr := rfl
@[simp] theorem drivePortB_depth (v : BitVec 3) : (s.drivePortB v).depth = s.depth := rfl
@[simp] theorem drivePortB_ram (v : BitVec 3) : (s.drivePortB v).ram = s.ram := rfl
@[simp] theorem drivePortB_ramWritten (v : BitVec 3) : (s.drivePortB v).ramWritten = s.ramWritten := rfl
@[simp] theorem drivePortB_bcd (v : BitVec 3) : (s.drivePortB v).bcd = s.bcd := rfl
@[simp] theorem drivePortB_cmp (v : BitVec 3) : (s.drivePortB v).cmp = s.cmp := rfl
@[simp] theorem drivePortB_cy (v : BitVec 3) : (s.drivePortB v).cy = s.cy := rfl
@[simp] theorem drivePortB_z (v : BitVec 3) : (s.drivePortB v).z = s.z := rfl
@[simp] theorem drivePortB_latchB (v : BitVec 3) : (s.drivePortB v).latchB = v := rfl
@[simp] theorem drivePortB_latchC (v : BitVec 3) : (s.drivePortB v).latchC = s.latchC := rfl
@[simp] theorem drivePortB_latchD (v : BitVec 3) : (s.drivePortB v).latchD = s.latchD := rfl
@[simp] theorem drivePortB_modeB (v : BitVec 3) : (s.drivePortB v).modeB = .output := rfl
@[simp] theorem drivePortB_modeC (v : BitVec 3) : (s.drivePortB v).modeC = s.modeC := rfl
@[simp] theorem drivePortB_modeD (v : BitVec 3) : (s.drivePortB v).modeD = s.modeD := rfl
@[simp] theorem drivePortB_skipPending (v : BitVec 3) : (s.drivePortB v).skipPending = s.skipPending := rfl
@[simp] theorem drivePortB_run (v : BitVec 3) : (s.drivePortB v).run = s.run := rfl
@[simp] theorem drivePortB_rom (v : BitVec 3) : (s.drivePortB v).rom = s.rom := rfl
@[simp] theorem drivePortB_params (v : BitVec 3) : (s.drivePortB v).params = s.params := rfl
@[simp] theorem drivePortB_pins (v : BitVec 3) : (s.drivePortB v).pins = s.pins := rfl
@[simp] theorem drivePortB_inputs (v : BitVec 3) : (s.drivePortB v).inputs = s.inputs := rfl
@[simp] theorem drivePortB_time (v : BitVec 3) : (s.drivePortB v).time = s.time := rfl

/-! `drivePortC` -/

@[simp] theorem drivePortC_pc (v : Nibble) : (s.drivePortC v).pc = s.pc := rfl
@[simp] theorem drivePortC_asr (v : Nibble) : (s.drivePortC v).asr = s.asr := rfl
@[simp] theorem drivePortC_depth (v : Nibble) : (s.drivePortC v).depth = s.depth := rfl
@[simp] theorem drivePortC_ram (v : Nibble) : (s.drivePortC v).ram = s.ram := rfl
@[simp] theorem drivePortC_ramWritten (v : Nibble) : (s.drivePortC v).ramWritten = s.ramWritten := rfl
@[simp] theorem drivePortC_bcd (v : Nibble) : (s.drivePortC v).bcd = s.bcd := rfl
@[simp] theorem drivePortC_cmp (v : Nibble) : (s.drivePortC v).cmp = s.cmp := rfl
@[simp] theorem drivePortC_cy (v : Nibble) : (s.drivePortC v).cy = s.cy := rfl
@[simp] theorem drivePortC_z (v : Nibble) : (s.drivePortC v).z = s.z := rfl
@[simp] theorem drivePortC_latchB (v : Nibble) : (s.drivePortC v).latchB = s.latchB := rfl
@[simp] theorem drivePortC_latchC (v : Nibble) : (s.drivePortC v).latchC = v := rfl
@[simp] theorem drivePortC_latchD (v : Nibble) : (s.drivePortC v).latchD = s.latchD := rfl
@[simp] theorem drivePortC_modeB (v : Nibble) : (s.drivePortC v).modeB = s.modeB := rfl
@[simp] theorem drivePortC_modeC (v : Nibble) : (s.drivePortC v).modeC = .output := rfl
@[simp] theorem drivePortC_modeD (v : Nibble) : (s.drivePortC v).modeD = s.modeD := rfl
@[simp] theorem drivePortC_skipPending (v : Nibble) : (s.drivePortC v).skipPending = s.skipPending := rfl
@[simp] theorem drivePortC_run (v : Nibble) : (s.drivePortC v).run = s.run := rfl
@[simp] theorem drivePortC_rom (v : Nibble) : (s.drivePortC v).rom = s.rom := rfl
@[simp] theorem drivePortC_params (v : Nibble) : (s.drivePortC v).params = s.params := rfl
@[simp] theorem drivePortC_pins (v : Nibble) : (s.drivePortC v).pins = s.pins := rfl
@[simp] theorem drivePortC_inputs (v : Nibble) : (s.drivePortC v).inputs = s.inputs := rfl
@[simp] theorem drivePortC_time (v : Nibble) : (s.drivePortC v).time = s.time := rfl

/-! `drivePortD` -/

@[simp] theorem drivePortD_pc (v : Nibble) : (s.drivePortD v).pc = s.pc := rfl
@[simp] theorem drivePortD_asr (v : Nibble) : (s.drivePortD v).asr = s.asr := rfl
@[simp] theorem drivePortD_depth (v : Nibble) : (s.drivePortD v).depth = s.depth := rfl
@[simp] theorem drivePortD_ram (v : Nibble) : (s.drivePortD v).ram = s.ram := rfl
@[simp] theorem drivePortD_ramWritten (v : Nibble) : (s.drivePortD v).ramWritten = s.ramWritten := rfl
@[simp] theorem drivePortD_bcd (v : Nibble) : (s.drivePortD v).bcd = s.bcd := rfl
@[simp] theorem drivePortD_cmp (v : Nibble) : (s.drivePortD v).cmp = s.cmp := rfl
@[simp] theorem drivePortD_cy (v : Nibble) : (s.drivePortD v).cy = s.cy := rfl
@[simp] theorem drivePortD_z (v : Nibble) : (s.drivePortD v).z = s.z := rfl
@[simp] theorem drivePortD_latchB (v : Nibble) : (s.drivePortD v).latchB = s.latchB := rfl
@[simp] theorem drivePortD_latchC (v : Nibble) : (s.drivePortD v).latchC = s.latchC := rfl
@[simp] theorem drivePortD_latchD (v : Nibble) : (s.drivePortD v).latchD = v := rfl
@[simp] theorem drivePortD_modeB (v : Nibble) : (s.drivePortD v).modeB = s.modeB := rfl
@[simp] theorem drivePortD_modeC (v : Nibble) : (s.drivePortD v).modeC = s.modeC := rfl
@[simp] theorem drivePortD_modeD (v : Nibble) : (s.drivePortD v).modeD = .output := rfl
@[simp] theorem drivePortD_skipPending (v : Nibble) : (s.drivePortD v).skipPending = s.skipPending := rfl
@[simp] theorem drivePortD_run (v : Nibble) : (s.drivePortD v).run = s.run := rfl
@[simp] theorem drivePortD_rom (v : Nibble) : (s.drivePortD v).rom = s.rom := rfl
@[simp] theorem drivePortD_params (v : Nibble) : (s.drivePortD v).params = s.params := rfl
@[simp] theorem drivePortD_pins (v : Nibble) : (s.drivePortD v).pins = s.pins := rfl
@[simp] theorem drivePortD_inputs (v : Nibble) : (s.drivePortD v).inputs = s.inputs := rfl
@[simp] theorem drivePortD_time (v : Nibble) : (s.drivePortD v).time = s.time := rfl

/-! `setSkip` -/

@[simp] theorem setSkip_pc (b : Bool) : (s.setSkip b).pc = s.pc := rfl
@[simp] theorem setSkip_asr (b : Bool) : (s.setSkip b).asr = s.asr := rfl
@[simp] theorem setSkip_depth (b : Bool) : (s.setSkip b).depth = s.depth := rfl
@[simp] theorem setSkip_ram (b : Bool) : (s.setSkip b).ram = s.ram := rfl
@[simp] theorem setSkip_ramWritten (b : Bool) : (s.setSkip b).ramWritten = s.ramWritten := rfl
@[simp] theorem setSkip_bcd (b : Bool) : (s.setSkip b).bcd = s.bcd := rfl
@[simp] theorem setSkip_cmp (b : Bool) : (s.setSkip b).cmp = s.cmp := rfl
@[simp] theorem setSkip_cy (b : Bool) : (s.setSkip b).cy = s.cy := rfl
@[simp] theorem setSkip_z (b : Bool) : (s.setSkip b).z = s.z := rfl
@[simp] theorem setSkip_latchB (b : Bool) : (s.setSkip b).latchB = s.latchB := rfl
@[simp] theorem setSkip_latchC (b : Bool) : (s.setSkip b).latchC = s.latchC := rfl
@[simp] theorem setSkip_latchD (b : Bool) : (s.setSkip b).latchD = s.latchD := rfl
@[simp] theorem setSkip_modeB (b : Bool) : (s.setSkip b).modeB = s.modeB := rfl
@[simp] theorem setSkip_modeC (b : Bool) : (s.setSkip b).modeC = s.modeC := rfl
@[simp] theorem setSkip_modeD (b : Bool) : (s.setSkip b).modeD = s.modeD := rfl
@[simp] theorem setSkip_skipPending (b : Bool) : (s.setSkip b).skipPending = b := rfl
@[simp] theorem setSkip_run (b : Bool) : (s.setSkip b).run = s.run := rfl
@[simp] theorem setSkip_rom (b : Bool) : (s.setSkip b).rom = s.rom := rfl
@[simp] theorem setSkip_params (b : Bool) : (s.setSkip b).params = s.params := rfl
@[simp] theorem setSkip_pins (b : Bool) : (s.setSkip b).pins = s.pins := rfl
@[simp] theorem setSkip_inputs (b : Bool) : (s.setSkip b).inputs = s.inputs := rfl
@[simp] theorem setSkip_time (b : Bool) : (s.setSkip b).time = s.time := rfl

/-! `setRun` -/

@[simp] theorem setRun_pc (m : RunMode) : (s.setRun m).pc = s.pc := rfl
@[simp] theorem setRun_asr (m : RunMode) : (s.setRun m).asr = s.asr := rfl
@[simp] theorem setRun_depth (m : RunMode) : (s.setRun m).depth = s.depth := rfl
@[simp] theorem setRun_ram (m : RunMode) : (s.setRun m).ram = s.ram := rfl
@[simp] theorem setRun_ramWritten (m : RunMode) : (s.setRun m).ramWritten = s.ramWritten := rfl
@[simp] theorem setRun_bcd (m : RunMode) : (s.setRun m).bcd = s.bcd := rfl
@[simp] theorem setRun_cmp (m : RunMode) : (s.setRun m).cmp = s.cmp := rfl
@[simp] theorem setRun_cy (m : RunMode) : (s.setRun m).cy = s.cy := rfl
@[simp] theorem setRun_z (m : RunMode) : (s.setRun m).z = s.z := rfl
@[simp] theorem setRun_latchB (m : RunMode) : (s.setRun m).latchB = s.latchB := rfl
@[simp] theorem setRun_latchC (m : RunMode) : (s.setRun m).latchC = s.latchC := rfl
@[simp] theorem setRun_latchD (m : RunMode) : (s.setRun m).latchD = s.latchD := rfl
@[simp] theorem setRun_modeB (m : RunMode) : (s.setRun m).modeB = s.modeB := rfl
@[simp] theorem setRun_modeC (m : RunMode) : (s.setRun m).modeC = s.modeC := rfl
@[simp] theorem setRun_modeD (m : RunMode) : (s.setRun m).modeD = s.modeD := rfl
@[simp] theorem setRun_skipPending (m : RunMode) : (s.setRun m).skipPending = s.skipPending := rfl
@[simp] theorem setRun_run (m : RunMode) : (s.setRun m).run = m := rfl
@[simp] theorem setRun_rom (m : RunMode) : (s.setRun m).rom = s.rom := rfl
@[simp] theorem setRun_params (m : RunMode) : (s.setRun m).params = s.params := rfl
@[simp] theorem setRun_pins (m : RunMode) : (s.setRun m).pins = s.pins := rfl
@[simp] theorem setRun_inputs (m : RunMode) : (s.setRun m).inputs = s.inputs := rfl
@[simp] theorem setRun_time (m : RunMode) : (s.setRun m).time = s.time := rfl

/-! `setStack` -/

@[simp] theorem setStack_pc (a : PAddr) (d : Fin 2) : (s.setStack a d).pc = s.pc := rfl
@[simp] theorem setStack_asr (a : PAddr) (d : Fin 2) : (s.setStack a d).asr = a := rfl
@[simp] theorem setStack_depth (a : PAddr) (d : Fin 2) : (s.setStack a d).depth = d := rfl
@[simp] theorem setStack_ram (a : PAddr) (d : Fin 2) : (s.setStack a d).ram = s.ram := rfl
@[simp] theorem setStack_ramWritten (a : PAddr) (d : Fin 2) : (s.setStack a d).ramWritten = s.ramWritten := rfl
@[simp] theorem setStack_bcd (a : PAddr) (d : Fin 2) : (s.setStack a d).bcd = s.bcd := rfl
@[simp] theorem setStack_cmp (a : PAddr) (d : Fin 2) : (s.setStack a d).cmp = s.cmp := rfl
@[simp] theorem setStack_cy (a : PAddr) (d : Fin 2) : (s.setStack a d).cy = s.cy := rfl
@[simp] theorem setStack_z (a : PAddr) (d : Fin 2) : (s.setStack a d).z = s.z := rfl
@[simp] theorem setStack_latchB (a : PAddr) (d : Fin 2) : (s.setStack a d).latchB = s.latchB := rfl
@[simp] theorem setStack_latchC (a : PAddr) (d : Fin 2) : (s.setStack a d).latchC = s.latchC := rfl
@[simp] theorem setStack_latchD (a : PAddr) (d : Fin 2) : (s.setStack a d).latchD = s.latchD := rfl
@[simp] theorem setStack_modeB (a : PAddr) (d : Fin 2) : (s.setStack a d).modeB = s.modeB := rfl
@[simp] theorem setStack_modeC (a : PAddr) (d : Fin 2) : (s.setStack a d).modeC = s.modeC := rfl
@[simp] theorem setStack_modeD (a : PAddr) (d : Fin 2) : (s.setStack a d).modeD = s.modeD := rfl
@[simp] theorem setStack_skipPending (a : PAddr) (d : Fin 2) : (s.setStack a d).skipPending = s.skipPending := rfl
@[simp] theorem setStack_run (a : PAddr) (d : Fin 2) : (s.setStack a d).run = s.run := rfl
@[simp] theorem setStack_rom (a : PAddr) (d : Fin 2) : (s.setStack a d).rom = s.rom := rfl
@[simp] theorem setStack_params (a : PAddr) (d : Fin 2) : (s.setStack a d).params = s.params := rfl
@[simp] theorem setStack_pins (a : PAddr) (d : Fin 2) : (s.setStack a d).pins = s.pins := rfl
@[simp] theorem setStack_inputs (a : PAddr) (d : Fin 2) : (s.setStack a d).inputs = s.inputs := rfl
@[simp] theorem setStack_time (a : PAddr) (d : Fin 2) : (s.setStack a d).time = s.time := rfl

/-! `initialise` -/

@[simp] theorem initialise_pc : s.initialise.pc = 0 := rfl
@[simp] theorem initialise_asr : s.initialise.asr = Config.unspecifiedAsr s.time := rfl
@[simp] theorem initialise_depth : s.initialise.depth = 0 := rfl
@[simp] theorem initialise_ram : s.initialise.ram = s.ram := rfl
@[simp] theorem initialise_ramWritten : s.initialise.ramWritten = s.ramWritten := rfl
@[simp] theorem initialise_bcd : s.initialise.bcd = false := rfl
@[simp] theorem initialise_cmp : s.initialise.cmp = false := rfl
@[simp] theorem initialise_cy : s.initialise.cy = false := rfl
@[simp] theorem initialise_z : s.initialise.z = false := rfl
@[simp] theorem initialise_latchB : s.initialise.latchB = s.latchB := rfl
@[simp] theorem initialise_latchC : s.initialise.latchC = s.latchC := rfl
@[simp] theorem initialise_latchD : s.initialise.latchD = s.latchD := rfl
@[simp] theorem initialise_modeB : s.initialise.modeB = .input := rfl
@[simp] theorem initialise_modeC : s.initialise.modeC = .input := rfl
@[simp] theorem initialise_modeD : s.initialise.modeD = .input := rfl
@[simp] theorem initialise_skipPending : s.initialise.skipPending = false := rfl
@[simp] theorem initialise_run : s.initialise.run = s.run := rfl
@[simp] theorem initialise_rom : s.initialise.rom = s.rom := rfl
@[simp] theorem initialise_params : s.initialise.params = s.params := rfl
@[simp] theorem initialise_pins : s.initialise.pins = s.pins := rfl
@[simp] theorem initialise_inputs : s.initialise.inputs = s.inputs := rfl
@[simp] theorem initialise_time : s.initialise.time = s.time := rfl

/-! `loseData` -/

@[simp] theorem loseData_pc : s.loseData.pc = s.pc := rfl
@[simp] theorem loseData_asr : s.loseData.asr = s.asr := rfl
@[simp] theorem loseData_depth : s.loseData.depth = s.depth := rfl
@[simp] theorem loseData_ram : s.loseData.ram = Vector.ofFn fun i => Config.undefinedRam s.time i.val := rfl
@[simp] theorem loseData_ramWritten : s.loseData.ramWritten = Vector.replicate 16 false := rfl
@[simp] theorem loseData_bcd : s.loseData.bcd = s.bcd := rfl
@[simp] theorem loseData_cmp : s.loseData.cmp = s.cmp := rfl
@[simp] theorem loseData_cy : s.loseData.cy = s.cy := rfl
@[simp] theorem loseData_z : s.loseData.z = s.z := rfl
@[simp] theorem loseData_latchB : s.loseData.latchB = Config.undefinedLatchB s.time := rfl
@[simp] theorem loseData_latchC : s.loseData.latchC = Config.undefinedLatchC s.time := rfl
@[simp] theorem loseData_latchD : s.loseData.latchD = Config.undefinedLatchD s.time := rfl
@[simp] theorem loseData_modeB : s.loseData.modeB = s.modeB := rfl
@[simp] theorem loseData_modeC : s.loseData.modeC = s.modeC := rfl
@[simp] theorem loseData_modeD : s.loseData.modeD = s.modeD := rfl
@[simp] theorem loseData_skipPending : s.loseData.skipPending = s.skipPending := rfl
@[simp] theorem loseData_run : s.loseData.run = s.run := rfl
@[simp] theorem loseData_rom : s.loseData.rom = s.rom := rfl
@[simp] theorem loseData_params : s.loseData.params = s.params := rfl
@[simp] theorem loseData_pins : s.loseData.pins = s.pins := rfl
@[simp] theorem loseData_inputs : s.loseData.inputs = s.inputs := rfl
@[simp] theorem loseData_time : s.loseData.time = s.time := rfl

/-! `setRom` -/

@[simp] theorem setRom_pc (m : Rom) : (s.setRom m).pc = s.pc := rfl
@[simp] theorem setRom_asr (m : Rom) : (s.setRom m).asr = s.asr := rfl
@[simp] theorem setRom_depth (m : Rom) : (s.setRom m).depth = s.depth := rfl
@[simp] theorem setRom_ram (m : Rom) : (s.setRom m).ram = s.ram := rfl
@[simp] theorem setRom_ramWritten (m : Rom) : (s.setRom m).ramWritten = s.ramWritten := rfl
@[simp] theorem setRom_bcd (m : Rom) : (s.setRom m).bcd = s.bcd := rfl
@[simp] theorem setRom_cmp (m : Rom) : (s.setRom m).cmp = s.cmp := rfl
@[simp] theorem setRom_cy (m : Rom) : (s.setRom m).cy = s.cy := rfl
@[simp] theorem setRom_z (m : Rom) : (s.setRom m).z = s.z := rfl
@[simp] theorem setRom_latchB (m : Rom) : (s.setRom m).latchB = s.latchB := rfl
@[simp] theorem setRom_latchC (m : Rom) : (s.setRom m).latchC = s.latchC := rfl
@[simp] theorem setRom_latchD (m : Rom) : (s.setRom m).latchD = s.latchD := rfl
@[simp] theorem setRom_modeB (m : Rom) : (s.setRom m).modeB = s.modeB := rfl
@[simp] theorem setRom_modeC (m : Rom) : (s.setRom m).modeC = s.modeC := rfl
@[simp] theorem setRom_modeD (m : Rom) : (s.setRom m).modeD = s.modeD := rfl
@[simp] theorem setRom_skipPending (m : Rom) : (s.setRom m).skipPending = s.skipPending := rfl
@[simp] theorem setRom_run (m : Rom) : (s.setRom m).run = s.run := rfl
@[simp] theorem setRom_rom (m : Rom) : (s.setRom m).rom = m := rfl
@[simp] theorem setRom_params (m : Rom) : (s.setRom m).params = s.params := rfl
@[simp] theorem setRom_pins (m : Rom) : (s.setRom m).pins = s.pins := rfl
@[simp] theorem setRom_inputs (m : Rom) : (s.setRom m).inputs = s.inputs := rfl
@[simp] theorem setRom_time (m : Rom) : (s.setRom m).time = s.time := rfl

/-! `setPins` -/

@[simp] theorem setPins_pc (p : PinSample) : (s.setPins p).pc = s.pc := rfl
@[simp] theorem setPins_asr (p : PinSample) : (s.setPins p).asr = s.asr := rfl
@[simp] theorem setPins_depth (p : PinSample) : (s.setPins p).depth = s.depth := rfl
@[simp] theorem setPins_ram (p : PinSample) : (s.setPins p).ram = s.ram := rfl
@[simp] theorem setPins_ramWritten (p : PinSample) : (s.setPins p).ramWritten = s.ramWritten := rfl
@[simp] theorem setPins_bcd (p : PinSample) : (s.setPins p).bcd = s.bcd := rfl
@[simp] theorem setPins_cmp (p : PinSample) : (s.setPins p).cmp = s.cmp := rfl
@[simp] theorem setPins_cy (p : PinSample) : (s.setPins p).cy = s.cy := rfl
@[simp] theorem setPins_z (p : PinSample) : (s.setPins p).z = s.z := rfl
@[simp] theorem setPins_latchB (p : PinSample) : (s.setPins p).latchB = s.latchB := rfl
@[simp] theorem setPins_latchC (p : PinSample) : (s.setPins p).latchC = s.latchC := rfl
@[simp] theorem setPins_latchD (p : PinSample) : (s.setPins p).latchD = s.latchD := rfl
@[simp] theorem setPins_modeB (p : PinSample) : (s.setPins p).modeB = s.modeB := rfl
@[simp] theorem setPins_modeC (p : PinSample) : (s.setPins p).modeC = s.modeC := rfl
@[simp] theorem setPins_modeD (p : PinSample) : (s.setPins p).modeD = s.modeD := rfl
@[simp] theorem setPins_skipPending (p : PinSample) : (s.setPins p).skipPending = s.skipPending := rfl
@[simp] theorem setPins_run (p : PinSample) : (s.setPins p).run = s.run := rfl
@[simp] theorem setPins_rom (p : PinSample) : (s.setPins p).rom = s.rom := rfl
@[simp] theorem setPins_params (p : PinSample) : (s.setPins p).params = s.params := rfl
@[simp] theorem setPins_pins (p : PinSample) : (s.setPins p).pins = p := rfl
@[simp] theorem setPins_inputs (p : PinSample) : (s.setPins p).inputs = s.inputs := rfl
@[simp] theorem setPins_time (p : PinSample) : (s.setPins p).time = s.time := rfl

/-! `tick` -/

@[simp] theorem tick_pc : s.tick.pc = s.pc := rfl
@[simp] theorem tick_asr : s.tick.asr = s.asr := rfl
@[simp] theorem tick_depth : s.tick.depth = s.depth := rfl
@[simp] theorem tick_ram : s.tick.ram = s.ram := rfl
@[simp] theorem tick_ramWritten : s.tick.ramWritten = s.ramWritten := rfl
@[simp] theorem tick_bcd : s.tick.bcd = s.bcd := rfl
@[simp] theorem tick_cmp : s.tick.cmp = s.cmp := rfl
@[simp] theorem tick_cy : s.tick.cy = s.cy := rfl
@[simp] theorem tick_z : s.tick.z = s.z := rfl
@[simp] theorem tick_latchB : s.tick.latchB = s.latchB := rfl
@[simp] theorem tick_latchC : s.tick.latchC = s.latchC := rfl
@[simp] theorem tick_latchD : s.tick.latchD = s.latchD := rfl
@[simp] theorem tick_modeB : s.tick.modeB = s.modeB := rfl
@[simp] theorem tick_modeC : s.tick.modeC = s.modeC := rfl
@[simp] theorem tick_modeD : s.tick.modeD = s.modeD := rfl
@[simp] theorem tick_skipPending : s.tick.skipPending = s.skipPending := rfl
@[simp] theorem tick_run : s.tick.run = s.run := rfl
@[simp] theorem tick_rom : s.tick.rom = s.rom := rfl
@[simp] theorem tick_params : s.tick.params = s.params := rfl
@[simp] theorem tick_pins : s.tick.pins = s.inputs.headD s.pins := rfl
@[simp] theorem tick_inputs : s.tick.inputs = s.inputs.tail := rfl
@[simp] theorem tick_time : s.tick.time = s.time + 1 := rfl

end Sys2Proof.Machine.State
end

