-- ==== Sys2Proof/Laws/Memory.lean ====
section
/-! SUPPORT. The laws of program memory and data memory: the canonical form is kept, a read after a write, and once and
for all what a read and a write of data memory can answer. -/

namespace Sys2Proof.Machine

/-! ## Program memory -/

theorem Rom.wfFrom_write {lo a : Nat} (w : Word) (hlo : lo ≤ a) (ha : a < 512) :
    ∀ m : Rom, Rom.wfFrom lo m = true → Rom.wfFrom lo (Rom.write m a w) = true := by
  intro m
  induction m generalizing lo with
  | nil => intro _; simp [Rom.write, Rom.wfFrom, hlo, ha]
  | cons cell rest ih =>
    obtain ⟨b, v⟩ := cell
    intro h
    simp only [Rom.wfFrom, Bool.and_eq_true, decide_eq_true_eq] at h
    obtain ⟨⟨hb, hb'⟩, hrest⟩ := h
    unfold Rom.write
    split
    · rename_i hlt
      simp [Rom.wfFrom, hlo, ha, hb', hrest, Nat.succ_le_of_lt hlt]
    · split
      · rename_i heq
        subst heq
        simp [Rom.wfFrom, hlo, ha, hrest]
      · have hgt : b + 1 ≤ a := by omega
        simp [Rom.wfFrom, hb, hb', ih hgt hrest]

/-- Writing keeps the canonical form. -/
theorem Rom.wf_write {m : Rom} {a : Nat} (w : Word) (ha : a < 512) (h : m.wf = true) : (m.write a w).wf = true :=
  Rom.wfFrom_write w (Nat.zero_le a) ha m h

theorem Rom.wf_nil : Rom.wf [] = true := rfl

/-- A read after a write to the same address gives the word written. -/
@[simp] theorem Rom.read_write_same (m : Rom) (a : Nat) (w : Word) : (m.write a w).read a = some w := by
  induction m with
  | nil => simp [Rom.write, Rom.read]
  | cons cell rest ih =>
    obtain ⟨b, v⟩ := cell
    unfold Rom.write
    split
    · simp [Rom.read]
    · split
      · simp [Rom.read]
      · rename_i h1 h2
        have : b ≠ a := fun h => h2 h.symm
        simp [Rom.read, this, ih]

/-- A write leaves every other address alone. -/
theorem Rom.read_write_other (m : Rom) {a b : Nat} (w : Word) (hab : b ≠ a) : (m.write a w).read b = m.read b := by
  induction m with
  | nil => simp [Rom.write, Rom.read, Ne.symm hab]
  | cons cell rest ih =>
    obtain ⟨c, v⟩ := cell
    unfold Rom.write
    split
    · simp [Rom.read, Ne.symm hab]
    · split
      · rename_i h1 h2
        subst h2
        simp [Rom.read, Ne.symm hab]
      · by_cases hc : c = b <;> simp [Rom.read, hc, ih]

/-! ## The map of data memory -/

theorem region_of_lt {a : DAddr} (h : a.toNat < 0x10) : region a = .ram ⟨a.toNat, h⟩ := by simp [region, h]

theorem region_unmapped_iff (a : DAddr) : region a = .unmapped ↔ 0x10 ≤ a.toNat ∧ a.toNat ≤ 0x70 := by
  unfold region
  (repeat' split) <;> simp <;> omega

@[simp] theorem region_71 : region 0x71#7 = .portB := rfl
@[simp] theorem region_72 : region 0x72#7 = .portC := rfl
@[simp] theorem region_73 : region 0x73#7 = .portD := rfl
@[simp] theorem region_7E : region 0x7E#7 = .bcdFlag := rfl
@[simp] theorem region_7F : region 0x7F#7 = .psw := rfl

/-- The map of R63: every address has its one row. -/
theorem region_cases (a : DAddr) :
    (∃ h : a.toNat < 16, region a = .ram ⟨a.toNat, h⟩) ∨
    (0x10 ≤ a.toNat ∧ a.toNat ≤ 0x70 ∧ region a = .unmapped) ∨
    (a = 0x71#7 ∧ region a = .portB) ∨ (a = 0x72#7 ∧ region a = .portC) ∨ (a = 0x73#7 ∧ region a = .portD) ∨
    (0x74 ≤ a.toNat ∧ a.toNat ≤ 0x7D ∧ region a = .fixedZero) ∨
    (a = 0x7E#7 ∧ region a = .bcdFlag) ∨ (a = 0x7F#7 ∧ region a = .psw) := by
  have hb := a.isLt
  have e : ∀ n, a.toNat = n → a = BitVec.ofNat 7 n := by rintro n rfl; simp
  by_cases h1 : a.toNat < 0x10
  · exact .inl ⟨h1, region_of_lt h1⟩
  by_cases h2 : a.toNat < 0x71
  · exact .inr (.inl ⟨by omega, by omega, by simp [region, h1, h2]⟩)
  by_cases h3 : a.toNat = 0x71
  · exact .inr (.inr (.inl ⟨e _ h3, by rw [e _ h3]; rfl⟩))
  by_cases h4 : a.toNat = 0x72
  · exact .inr (.inr (.inr (.inl ⟨e _ h4, by rw [e _ h4]; rfl⟩)))
  by_cases h5 : a.toNat = 0x73
  · exact .inr (.inr (.inr (.inr (.inl ⟨e _ h5, by rw [e _ h5]; rfl⟩))))
  by_cases h6 : a.toNat < 0x7E
  · exact .inr (.inr (.inr (.inr (.inr (.inl ⟨by omega, by omega, by simp [region, h1, h2, h3, h4, h5, h6]⟩)))))
  by_cases h7 : a.toNat = 0x7E
  · exact .inr (.inr (.inr (.inr (.inr (.inr (.inl ⟨e _ h7, by rw [e _ h7]; rfl⟩))))))
  · have h8 : a.toNat = 0x7F := by omega
    exact .inr (.inr (.inr (.inr (.inr (.inr (.inr ⟨e _ h8, by rw [e _ h8]; rfl⟩))))))

/-- Different addresses share a row only where nothing is stored. -/
theorem region_eq_of_ne {a b : DAddr} (h : region a = region b) (hne : a ≠ b) :
    region a = .unmapped ∨ region a = .fixedZero := by
  rcases region_cases a with ⟨_, hr⟩ | ⟨_, _, hr⟩ | ⟨rfl, hr⟩ | ⟨rfl, hr⟩ | ⟨rfl, hr⟩ | ⟨_, _, hr⟩ | ⟨rfl, hr⟩ | ⟨rfl, hr⟩ <;>
  rcases region_cases b with ⟨_, hq⟩ | ⟨_, _, hq⟩ | ⟨rfl, hq⟩ | ⟨rfl, hq⟩ | ⟨rfl, hq⟩ | ⟨_, _, hq⟩ | ⟨rfl, hq⟩ | ⟨rfl, hq⟩ <;>
  simp_all
  exact hne (BitVec.eq_of_toNat_eq h)

theorem regAddr_toNat (r : Nibble) : (regAddr r).toNat = r.toNat := by
  revert r; decide

/-- General register `r` is the data-memory nibble 00H + r (10_state.md R24, R25). -/
@[simp] theorem region_regAddr (r : Nibble) : region (regAddr r) = .ram (regIndex r) := by
  have h : (regAddr r).toNat < 0x10 := by rw [regAddr_toNat]; exact r.isLt
  rw [region_of_lt h]
  simp [regIndex, regAddr_toNat]

theorem regAddr_inj {r q : Nibble} : regAddr r = regAddr q ↔ r = q := by
  constructor
  · intro h
    have := congrArg BitVec.toNat h
    rw [regAddr_toNat, regAddr_toNat] at this
    exact BitVec.eq_of_toNat_eq this
  · rintro rfl; rfl

theorem regIndex_inj {r q : Nibble} : regIndex r = regIndex q ↔ r = q := by
  constructor
  · intro h
    exact BitVec.eq_of_toNat_eq (congrArg Fin.val h)
  · rintro rfl; rfl

/-- An address of RAM is the address of a general register. -/
theorem eq_regAddr_of_region_ram {a : DAddr} {i : Fin 16} (h : region a = .ram i) :
    a = regAddr (BitVec.ofFin i) ∧ regIndex (BitVec.ofFin i) = i := by
  unfold region at h
  (repeat' split at h) <;> simp at h
  subst h
  refine ⟨BitVec.eq_of_toNat_eq ?_, rfl⟩
  rw [regAddr_toNat]
  rfl

/-! ## Reading and writing -/

@[simp] theorem nibbleOf_bit3 (a b c d : Bool) : (nibbleOf a b c d)[3] = a := by
  cases a <;> cases b <;> cases c <;> cases d <;> rfl
@[simp] theorem nibbleOf_bit2 (a b c d : Bool) : (nibbleOf a b c d)[2] = b := by
  cases a <;> cases b <;> cases c <;> cases d <;> rfl
@[simp] theorem nibbleOf_bit1 (a b c d : Bool) : (nibbleOf a b c d)[1] = c := by
  cases a <;> cases b <;> cases c <;> cases d <;> rfl
@[simp] theorem nibbleOf_bit0 (a b c d : Bool) : (nibbleOf a b c d)[0] = d := by
  cases a <;> cases b <;> cases c <;> cases d <;> rfl

/-- A pin's level depends on its port's latch and mode, the parameters, the sample and the time only. -/
theorem readPortB_congr {s t : State} (h : t.latchB = s.latchB ∧ t.modeB = s.modeB) (hp : t.params = s.params)
    (hq : t.pins = s.pins) (ht : t.time = s.time) : readPortB t = readPortB s := by
  simp [readPortB, pinLevel, chipDrive, h, hp, hq, ht]

theorem readPortC_congr {s t : State} (h : t.latchC = s.latchC ∧ t.modeC = s.modeC)
    (hq : t.pins = s.pins) (ht : t.time = s.time) : readPortC t = readPortC s := by
  simp [readPortC, pinLevel, chipDrive, h, hq, ht]

theorem readPortD_congr {s t : State} (h : t.latchD = s.latchD ∧ t.modeD = s.modeD)
    (hq : t.pins = s.pins) (ht : t.time = s.time) : readPortD t = readPortD s := by
  simp [readPortD, pinLevel, chipDrive, h, hq, ht]

/-- What a read of an address depends on (R64 to R71): states that agree on it give the same answer. -/
theorem dmRead_congr (a : DAddr) {s t : State}
    (hram : ∀ i : Fin 16, region a = .ram i → t.ram[i] = s.ram[i] ∧ t.ramWritten[i] = s.ramWritten[i])
    (hB : region a = .portB → t.latchB = s.latchB ∧ t.modeB = s.modeB)
    (hC : region a = .portC → t.latchC = s.latchC ∧ t.modeC = s.modeC)
    (hD : region a = .portD → t.latchD = s.latchD ∧ t.modeD = s.modeD)
    (hb : region a = .bcdFlag → t.bcd = s.bcd)
    (hf : region a = .psw → t.cmp = s.cmp ∧ t.cy = s.cy ∧ t.z = s.z)
    (hp : t.params = s.params) (hq : t.pins = s.pins) (ht : t.time = s.time) : dmRead a t = dmRead a s := by
  unfold dmRead
  cases hr : region a with
  | ram i =>
    obtain ⟨hv, hw⟩ := hram i hr
    have hr : ramReadable i t = ramReadable i s := by rw [ramReadable, ramReadable, hw, hp]
    simp only [hr, hv]
  | unmapped => simp [hp]
  | portB => exact congrArg Except.ok (readPortB_congr (hB hr) hp hq ht)
  | portC => exact congrArg Except.ok (readPortC_congr (hC hr) hq ht)
  | portD => exact congrArg Except.ok (readPortD_congr (hD hr) hq ht)
  | fixedZero => rfl
  | bcdFlag => simp [bcdNibble, hb hr]
  | psw => simp [pswNibble, hf hr]

/-- Everything a read of a general register can do (R24, R26). -/
theorem dmRead_regAddr (r : Nibble) (s : State) : dmRead (regAddr r) s =
    if ramReadable (regIndex r) s then .ok (readReg r s) else .error (.undefinedRead (regAddr r)) := by
  simp [dmRead, readReg]

theorem dmRead_regAddr_ok {r v : Nibble} {s : State} (h : dmRead (regAddr r) s = .ok v) :
    ramReadable (regIndex r) s = true ∧ v = readReg r s := by
  rw [dmRead_regAddr] at h
  split at h
  · cases h; exact ⟨‹_›, rfl⟩
  · cases h

@[simp] theorem dmWrite_regAddr (r v : Nibble) (s : State) : dmWrite (regAddr r) v s = .ok (writeReg r v s) := by
  simp [dmWrite, writeReg]

theorem accessible_iff (a : DAddr) (s : State) :
    accessible a s = true ↔ region a ≠ .unmapped ∨ s.params.unmappedDm = .readZeroWriteIgnored := by
  simp [accessible]

@[simp] theorem accessible_regAddr (r : Nibble) (s : State) : accessible (regAddr r) s = true := by
  simp [accessible_iff]

/-- A RAM nibble that cannot be read: `UndefinedRead` (R26, D15). -/
theorem dmRead_of_not_readable {a : DAddr} {i : Fin 16} {s : State} (hr : region a = .ram i)
    (h : ramReadable i s = false) : dmRead a s = .error (.undefinedRead a) := by
  simp [dmRead, hr, h]

/-- A read of an accessible address answers a nibble, unless it is a RAM nibble that cannot be read. -/
theorem dmRead_of_accessible {a : DAddr} {s : State} (h : accessible a s = true)
    (hr : ∀ i, region a = .ram i → ramReadable i s = true) : ∃ v, dmRead a s = .ok v := by
  rw [accessible_iff] at h
  unfold dmRead
  split <;> simp_all

/-- A write to an accessible address answers a state. -/
theorem dmWrite_of_accessible {a : DAddr} {s : State} (v : Nibble) (h : accessible a s = true) :
    ∃ t, dmWrite a v s = .ok t := by
  rw [accessible_iff] at h
  unfold dmWrite
  split <;> simp_all

theorem dmRead_of_not_accessible {a : DAddr} {s : State} (h : accessible a s = false) :
    dmRead a s = .error (.unmappedDataMemory a) := by
  have h' : region a = .unmapped ∧ s.params.unmappedDm = .fault := by
    simp only [accessible, Bool.or_eq_false_iff, bne_eq_false_iff_eq, beq_eq_false_iff_ne] at h
    refine ⟨h.1, ?_⟩
    cases hp : s.params.unmappedDm <;> simp_all
  simp [dmRead, h'.1, h'.2]

theorem dmWrite_of_not_accessible {a : DAddr} {s : State} (v : Nibble) (h : accessible a s = false) :
    dmWrite a v s = .error (.unmappedDataMemory a) := by
  have h' : region a = .unmapped ∧ s.params.unmappedDm = .fault := by
    simp only [accessible, Bool.or_eq_false_iff, bne_eq_false_iff_eq, beq_eq_false_iff_ne] at h
    refine ⟨h.1, ?_⟩
    cases hp : s.params.unmappedDm <;> simp_all
  simp [dmWrite, h'.1, h'.2]

theorem accessible_of_dmRead {a : DAddr} {s : State} {v : Nibble} (h : dmRead a s = .ok v) : accessible a s = true := by
  by_contra hn
  rw [dmRead_of_not_accessible (by simpa using hn)] at h
  cases h

/-- Everything a write to data memory can do (20_memory.md R64 to R71). -/
theorem dmWrite_cases {a : DAddr} {v : Nibble} {s t : State} (h : dmWrite a v s = .ok t) :
    (∃ i, region a = .ram i ∧ t = s.setRam i v) ∨
    (region a = .unmapped ∧ s.params.unmappedDm = .readZeroWriteIgnored ∧ t = s) ∨
    (region a = .portB ∧ t = s.drivePortB (v.extractLsb' 0 3)) ∨
    (region a = .portC ∧ t = s.drivePortC v) ∨
    (region a = .portD ∧ t = s.drivePortD v) ∨
    (region a = .fixedZero ∧ t = s) ∨
    (region a = .bcdFlag ∧ t = s.setFlags (v.getLsbD 0) s.cmp s.cy s.z) ∨
    (region a = .psw ∧ t = s.setFlags s.bcd (v.getLsbD 3) (v.getLsbD 2) (v.getLsbD 1)) := by
  unfold dmWrite at h
  cases hr : region a <;> simp only [hr] at h
  case unmapped =>
    cases hp : s.params.unmappedDm <;> simp only [hp] at h <;> cases h
    simp
  all_goals (cases h; simp)

/-- A write to data memory touches no control state. -/
theorem dmWrite_control {a : DAddr} {v : Nibble} {s t : State} (h : dmWrite a v s = .ok t) :
    t.pc = s.pc ∧ t.asr = s.asr ∧ t.depth = s.depth ∧ t.run = s.run ∧ t.skipPending = s.skipPending ∧
    t.rom = s.rom ∧ t.params = s.params ∧ t.pins = s.pins ∧ t.inputs = s.inputs ∧ t.time = s.time := by
  rcases dmWrite_cases h with ⟨i, -, rfl⟩ | ⟨-, -, rfl⟩ | ⟨-, rfl⟩ | ⟨-, rfl⟩ | ⟨-, rfl⟩ | ⟨-, rfl⟩ | ⟨-, rfl⟩ | ⟨-, rfl⟩ <;>
    simp

/-! ## The answers of the shared steps of a meaning -/

theorem readThen_of_read {a : DAddr} {s : State} {v : Nibble} (k : Nibble → Out) (h : dmRead a s = .ok v) :
    readThen a s k = k v := by simp [readThen, h]

theorem readThen_of_not_accessible {a : DAddr} {s : State} (k : Nibble → Out) (h : accessible a s = false) :
    readThen a s k = .fault (.unmappedDataMemory a) := by simp [readThen, dmRead_of_not_accessible h]

@[simp] theorem addressThen_of_accessible {a : DAddr} {s : State} (k : Out) (h : accessible a s = true) :
    addressThen a s k = k := if_pos h

theorem addressThen_of_not_accessible {a : DAddr} {s : State} (k : Out) (h : accessible a s = false) :
    addressThen a s k = .fault (.unmappedDataMemory a) := if_neg (by simp [h])

/-- What follows a read that led to a next state. -/
theorem readThen_next {a : DAddr} {s t : State} {k : Nibble → Out} (h : readThen a s k = .next t) :
    ∃ v, dmRead a s = .ok v ∧ k v = .next t := by
  unfold readThen at h
  split at h
  · cases h
  · exact ⟨_, ‹_›, h⟩

theorem addressThen_next {a : DAddr} {s t : State} {k : Out} (h : addressThen a s k = .next t) :
    accessible a s = true ∧ k = .next t := by
  unfold addressThen at h
  split at h
  · exact ⟨‹_›, h⟩
  · cases h

theorem readRegThen_next {r : Nibble} {s t : State} {k : Nibble → Out} (h : readRegThen r s k = .next t) :
    k (readReg r s) = .next t := by
  obtain ⟨v, hv, hk⟩ := readThen_next h
  rwa [(dmRead_regAddr_ok hv).2] at hk

theorem readBoth_of_reads {r a b : Nibble} {m : DAddr} {s : State} (k : Nibble → Nibble → Out)
    (ha : dmRead (regAddr r) s = .ok a) (hb : dmRead m s = .ok b) : readBoth r m s k = k a b := by
  rw [readBoth, addressThen_of_accessible _ (accessible_of_dmRead hb), readRegThen, readThen_of_read _ ha,
    readThen_of_read _ hb]

/-- What follows the reads of an `r, m` form that led to a next state. -/
theorem readBoth_next {r : Nibble} {m : DAddr} {s t : State} {k : Nibble → Nibble → Out}
    (h : readBoth r m s k = .next t) : ∃ b, dmRead m s = .ok b ∧ k (readReg r s) b = .next t :=
  readThen_next (readRegThen_next (addressThen_next h).2)

@[simp] theorem thenAdvance_ok (t : State) : thenAdvance (.ok t) = .next t.advancePc := rfl

theorem thenAdvance_next {r : Except Fault State} {t : State} (h : thenAdvance r = .next t) :
    ∃ u, r = .ok u ∧ t = u.advancePc := by
  unfold thenAdvance at h
  split at h
  · cases h
  · cases h; exact ⟨_, rfl, rfl⟩

theorem skipIf_next {c : Bool} {s t : State} (h : skipIf c s = .next t) :
    t = (s.setSkip (c || s.skipPending)).advancePc := by
  cases h; rfl

/-- Everything ARITH_COMMIT can do (40_add_sub.md R134). -/
theorem arithCommit_cases {dest : DAddr} {o : AluOut} {s t : State} (h : arithCommit dest o s = .ok t) :
    (s.cmp = true ∧ t = s.setFlags s.bcd s.cmp o.cy (zAfter o.res s.cmp s.z)) ∨
    (s.cmp = false ∧ dmWrite dest o.res (s.setFlags s.bcd s.cmp o.cy (zAfter o.res s.cmp s.z)) = .ok t) := by
  unfold arithCommit at h
  split at h
  · cases h; exact .inl ⟨‹_›, rfl⟩
  · exact .inr ⟨by simpa using ‹¬s.cmp = true›, h⟩

/-- Everything the `r, m` form of an arithmetic instruction can do when it goes on (R130). -/
theorem arithRM_next {alu : Bool → Nibble → Nibble → Bool → AluOut} {c : Bool} {r : Nibble} {m : DAddr} {s t : State}
    (h : arithRM alu c r m s = .next t) :
    ∃ b u, dmRead m s = .ok b ∧ arithCommit (regAddr r) (alu s.bcd (readReg r s) b c) s = .ok u ∧ t = u.advancePc := by
  obtain ⟨b, hb, hk⟩ := readBoth_next h
  obtain ⟨u, hu, rfl⟩ := thenAdvance_next hk
  exact ⟨b, u, hb, hu, rfl⟩

/-- Everything the `m, #n4` form of an arithmetic instruction can do when it goes on (R130). -/
theorem arithMI_next {alu : Bool → Nibble → Nibble → Bool → AluOut} {c : Bool} {m : DAddr} {n4 : Nibble} {s t : State}
    (h : arithMI alu c m n4 s = .next t) :
    ∃ a u, dmRead m s = .ok a ∧ arithCommit m (alu s.bcd a n4 c) s = .ok u ∧ t = u.advancePc := by
  obtain ⟨a, ha, hk⟩ := readThen_next h
  obtain ⟨u, hu, rfl⟩ := thenAdvance_next hk
  exact ⟨a, u, ha, hu, rfl⟩

/-! ## Where the shared operations complete -/

theorem not_accessible_iff (a : DAddr) (s : State) :
    accessible a s = false ↔ 0x10 ≤ a.toNat ∧ a.toNat ≤ 0x70 ∧ s.params.unmappedDm = .fault := by
  have : ¬ s.params.unmappedDm = .readZeroWriteIgnored ↔ s.params.unmappedDm = .fault := by
    cases s.params.unmappedDm <;> simp
  rw [← Bool.not_eq_true, accessible_iff, not_or, not_not, region_unmapped_iff, this, and_assoc]

theorem readThen_completes {a : DAddr} {s : State} {k : Nibble → Out} (h : accessible a s = true)
    (hr : ∀ i, region a = .ram i → ramReadable i s = true) (hk : ∀ v, ∃ t, k v = .next t) :
    ∃ t, readThen a s k = .next t := by
  obtain ⟨v, hv⟩ := dmRead_of_accessible h hr
  rw [readThen_of_read k hv]
  exact hk v

theorem readRegThen_completes {r : Nibble} {s : State} {k : Nibble → Out} (hr : ramReadable (regIndex r) s = true)
    (hk : ∀ v, ∃ t, k v = .next t) : ∃ t, readRegThen r s k = .next t :=
  readThen_completes (accessible_regAddr r s) (by simpa using hr) hk

theorem readBoth_completes {r : Nibble} {m : DAddr} {s : State} {k : Nibble → Nibble → Out}
    (hm : accessible m s = true) (hr : ramReadable (regIndex r) s = true)
    (hi : ∀ i, region m = .ram i → ramReadable i s = true) (hk : ∀ a b, ∃ t, k a b = .next t) :
    ∃ t, readBoth r m s k = .next t := by
  rw [readBoth, addressThen_of_accessible _ hm]
  exact readRegThen_completes hr fun a => readThen_completes hm hi (hk a)

theorem store_completes {a : DAddr} {s : State} (v : Nibble) (h : accessible a s = true) :
    ∃ t, thenAdvance (dmWrite a v s) = .next t := by
  obtain ⟨u, hu⟩ := dmWrite_of_accessible v h
  exact ⟨_, by rw [hu]; rfl⟩

theorem arithCommit_completes {dest : DAddr} {s : State} (o : AluOut) (h : accessible dest s = true) :
    ∃ t, thenAdvance (arithCommit dest o s) = .next t := by
  unfold arithCommit
  split
  · exact ⟨_, rfl⟩
  · exact store_completes o.res h

end Sys2Proof.Machine
end

