-- ==== Sys2Proof/Laws/PerInstr.lean ====
section
/-! SUPPORT. Statements made per instruction. EncodedRow: the word of a well-formed instruction has the fixed bits of its
row of spec/opcode_table.json (spec/30_encoding.md R106, R107). -/

namespace Sys2Proof.Laws.EncodedRow

/-- Mask and match of the instruction's row. -/
def row : Instr → Word × Word
  | .addRM _ _ => (0xF800, 0x0000)
  | .addMI _ _ => (0xF800, 0x8000)
  | .addcRM _ _ => (0xF800, 0x1000)
  | .addcMI _ _ => (0xF800, 0x9000)
  | .subRM _ _ => (0xF800, 0x0800)
  | .subMI _ _ => (0xF800, 0x8800)
  | .subcRM _ _ => (0xF800, 0x1800)
  | .subcMI _ _ => (0xF800, 0x9800)
  | .orRM _ _ => (0xF800, 0x3000)
  | .orMI _ _ => (0xF800, 0xB000)
  | .andRM _ _ => (0xF800, 0x2000)
  | .andMI _ _ => (0xF800, 0xA000)
  | .xorRM _ _ => (0xF800, 0x2800)
  | .xorMI _ _ => (0xF800, 0xA800)
  | .skt _ _ => (0xF800, 0xF000)
  | .skf _ _ => (0xF800, 0xF800)
  | .ske _ _ => (0xF800, 0x4800)
  | .skne _ _ => (0xF800, 0x5800)
  | .skge _ _ => (0xF800, 0xC800)
  | .sklt _ _ => (0xF800, 0xD800)
  | .rorc _ => (0xFFF0, 0x3870)
  | .ld _ _ => (0xF800, 0x4000)
  | .st _ _ => (0xF800, 0xC000)
  | .mov _ _ => (0xF800, 0xE800)
  | .br _ => (0xFE00, 0x6000)
  | .call _ => (0xFE00, 0xE000)
  | .ret => (0xFFFF, 0x38E0)
  | .retsk => (0xFFFF, 0x39E0)
  | .stop _ => (0xFFFE, 0x3AF0)
  | .halt _ => (0xFFFE, 0x3BF0)
  | .nop => (0xFFFF, 0x3CF0)

def Statement (i : Instr) : Prop := i.wf = true → encode i &&& (row i).1 = (row i).2

theorem packOp_and_opMask (op : BitVec 5) (mid : BitVec 7) (low : BitVec 4) :
    packOp op mid low &&& 0xF800 = packOp op 0 0 := by
  apply BitVec.eq_of_getLsbD_eq
  intro i hi
  simp only [packOp, BitVec.getLsbD_and, BitVec.getLsbD_append]
  interval_cases i <;> simp

theorem packOp_and_rorcMask (op : BitVec 5) (mid : BitVec 7) (low : BitVec 4) :
    packOp op mid low &&& 0xFFF0 = packOp op mid 0 := by
  apply BitVec.eq_of_getLsbD_eq
  intro i hi
  simp only [packOp, BitVec.getLsbD_and, BitVec.getLsbD_append]
  interval_cases i <;> simp

theorem packAddr_and_branchMask (op : BitVec 5) (addr : BitVec 11) (h : addrOk addr = true) :
    packAddr op addr &&& 0xFE00 = packAddr op 0 := by
  have h9 : addr[9] = false := by
    have := congrArg (fun v => BitVec.getLsbD v 0) (by simpa [addrOk] using h : addr.extractLsb' 9 2 = 0)
    simpa using this
  have h10 : addr[10] = false := by
    have := congrArg (fun v => BitVec.getLsbD v 1) (by simpa [addrOk] using h : addr.extractLsb' 9 2 = 0)
    simpa using this
  apply BitVec.eq_of_getLsbD_eq
  intro i hi
  simp only [packAddr, BitVec.getLsbD_and, BitVec.getLsbD_append]
  interval_cases i <;> simp [h9, h10]

theorem addRM (r : Nibble) (m : DAddr) : Statement (.addRM r m) := fun _ => packOp_and_opMask _ _ _
theorem addMI (m : DAddr) (n4 : Nibble) : Statement (.addMI m n4) := fun _ => packOp_and_opMask _ _ _
theorem addcRM (r : Nibble) (m : DAddr) : Statement (.addcRM r m) := fun _ => packOp_and_opMask _ _ _
theorem addcMI (m : DAddr) (n4 : Nibble) : Statement (.addcMI m n4) := fun _ => packOp_and_opMask _ _ _
theorem subRM (r : Nibble) (m : DAddr) : Statement (.subRM r m) := fun _ => packOp_and_opMask _ _ _
theorem subMI (m : DAddr) (n4 : Nibble) : Statement (.subMI m n4) := fun _ => packOp_and_opMask _ _ _
theorem subcRM (r : Nibble) (m : DAddr) : Statement (.subcRM r m) := fun _ => packOp_and_opMask _ _ _
theorem subcMI (m : DAddr) (n4 : Nibble) : Statement (.subcMI m n4) := fun _ => packOp_and_opMask _ _ _
theorem orRM (r : Nibble) (m : DAddr) : Statement (.orRM r m) := fun _ => packOp_and_opMask _ _ _
theorem orMI (m : DAddr) (n4 : Nibble) : Statement (.orMI m n4) := fun _ => packOp_and_opMask _ _ _
theorem andRM (r : Nibble) (m : DAddr) : Statement (.andRM r m) := fun _ => packOp_and_opMask _ _ _
theorem andMI (m : DAddr) (n4 : Nibble) : Statement (.andMI m n4) := fun _ => packOp_and_opMask _ _ _
theorem xorRM (r : Nibble) (m : DAddr) : Statement (.xorRM r m) := fun _ => packOp_and_opMask _ _ _
theorem xorMI (m : DAddr) (n4 : Nibble) : Statement (.xorMI m n4) := fun _ => packOp_and_opMask _ _ _
theorem skt (m : DAddr) (n : Nibble) : Statement (.skt m n) := fun _ => packOp_and_opMask _ _ _
theorem skf (m : DAddr) (n : Nibble) : Statement (.skf m n) := fun _ => packOp_and_opMask _ _ _
theorem ske (m : DAddr) (n4 : Nibble) : Statement (.ske m n4) := fun _ => packOp_and_opMask _ _ _
theorem skne (m : DAddr) (n4 : Nibble) : Statement (.skne m n4) := fun _ => packOp_and_opMask _ _ _
theorem skge (m : DAddr) (n4 : Nibble) : Statement (.skge m n4) := fun _ => packOp_and_opMask _ _ _
theorem sklt (m : DAddr) (n4 : Nibble) : Statement (.sklt m n4) := fun _ => packOp_and_opMask _ _ _
theorem rorc (r : Nibble) : Statement (.rorc r) := fun _ => packOp_and_rorcMask _ _ _
theorem ld (r : Nibble) (m : DAddr) : Statement (.ld r m) := fun _ => packOp_and_opMask _ _ _
theorem st (m : DAddr) (r : Nibble) : Statement (.st m r) := fun _ => packOp_and_opMask _ _ _
theorem mov (m : DAddr) (n4 : Nibble) : Statement (.mov m n4) := fun _ => packOp_and_opMask _ _ _
theorem br (addr : BitVec 11) : Statement (.br addr) := packAddr_and_branchMask _ _
theorem call (addr : BitVec 11) : Statement (.call addr) := packAddr_and_branchMask _ _
theorem ret : Statement .ret := fun _ => rfl
theorem retsk : Statement .retsk := fun _ => rfl
theorem stop (s : Nibble) : Statement (.stop s) := by unfold Statement; revert s; decide
theorem halt (h : Nibble) : Statement (.halt h) := by unfold Statement; revert h; decide
theorem nop : Statement .nop := fun _ => rfl

end Sys2Proof.Laws.EncodedRow
end

