-- ==== Sys2Proof/Laws/Step.lean ====
section
/-! SUPPORT. Once and for all what each meaning and a step can do when they answer a next state. -/

namespace Sys2Proof.Machine

theorem logicRM_next {f : Nibble → Nibble → Nibble} {r : Nibble} {m : DAddr} {s t : State}
    (h : logicRM f r m s = .next t) :
    ∃ b, dmRead m s = .ok b ∧ t = (writeReg r (f (readReg r s) b) s).advancePc := by
  obtain ⟨b, hb, hk⟩ := readBoth_next h
  cases hk
  exact ⟨b, hb, rfl⟩

theorem logicMI_next {f : Nibble → Nibble → Nibble} {m : DAddr} {n4 : Nibble} {s t : State}
    (h : logicMI f m n4 s = .next t) :
    ∃ a u, dmRead m s = .ok a ∧ dmWrite m (f a n4) s = .ok u ∧ t = u.advancePc := by
  obtain ⟨a, ha, hk⟩ := readThen_next h
  obtain ⟨u, hu, rfl⟩ := thenAdvance_next hk
  exact ⟨a, u, ha, hu, rfl⟩

theorem judge_next {test : Nibble → Nibble → Bool} {m : DAddr} {n : Nibble} {s t : State}
    (h : judge test m n s = .next t) :
    ∃ v u, dmRead m s = .ok v ∧ testedNibble m n v s = .ok u ∧
      t = ((s.setFlags s.bcd false s.cy s.z).setSkip (test u n || s.skipPending)).advancePc := by
  obtain ⟨v, hv, hk⟩ := readThen_next h
  split at hk
  · cases hk
  · rename_i u hu
    exact ⟨v, u, hv, hu, skipIf_next hk⟩

theorem compareSkip_next {test : Nibble → Nibble → Bool} {m : DAddr} {n4 : Nibble} {s t : State}
    (h : compareSkip test m n4 s = .next t) :
    ∃ v, dmRead m s = .ok v ∧ t = (s.setSkip (test v n4 || s.skipPending)).advancePc := by
  obtain ⟨v, hv, hk⟩ := readThen_next h
  exact ⟨v, hv, skipIf_next hk⟩

theorem popReturn_ok {s t : State} (h : popReturn s = .ok t) :
    s.depth ≠ 0 ∧ t = (s.setStack s.asr 0).setPc s.asr := by
  unfold popReturn at h
  split at h
  · cases h
  · cases h; exact ⟨‹_›, rfl⟩

theorem execBr_next {addr : BitVec 11} {s t : State} (h : execBr addr s = .next t) :
    addrOk addr = true ∧ t = s.setPc (targetOf addr) := by
  unfold execBr at h
  split at h
  · cases h; exact ⟨‹_›, rfl⟩
  · cases h

theorem execCall_next {addr : BitVec 11} {s t : State} (h : execCall addr s = .next t) :
    addrOk addr = true ∧ s.depth ≠ 1 ∧ t = (s.setStack (s.pc + 1) 1).setPc (targetOf addr) := by
  unfold execCall at h
  split at h
  · split at h
    · cases h
    · cases h; exact ⟨‹_›, ‹_›, rfl⟩
  · cases h

theorem execRet_next {s t : State} (h : execRet s = .next t) :
    s.depth ≠ 0 ∧ t = (s.setStack s.asr 0).setPc s.asr := by
  unfold execRet at h
  split at h
  · cases h
  · cases h; exact popReturn_ok ‹_›

theorem execRetsk_next {s t : State} (h : execRetsk s = .next t) :
    s.depth ≠ 0 ∧ t = ((s.setStack s.asr 0).setPc s.asr).setSkip true := by
  unfold execRetsk at h
  split at h
  · cases h
  · cases h
    obtain ⟨hd, rfl⟩ := popReturn_ok ‹_›
    exact ⟨hd, rfl⟩

theorem execHalt_next {x : Nibble} {s t : State} (h : execHalt x s = .next t) :
    standbyOk x = true ∧ t = s.advancePc.setRun
      (if x.getLsbD 0 then (if pinLevel s .p0b0 then s.run else .halt true) else .halt false) := by
  unfold execHalt at h
  split at h
  · cases h; exact ⟨‹_›, rfl⟩
  · cases h

theorem execStop_next {x : Nibble} {s t : State} (h : execStop x s = .next t) :
    standbyOk x = true ∧ t = (if x.getLsbD 0 then s.advancePc.setRun (if pinLevel s .p0b1 then s.run else .stop true)
      else enterStopReset s) := by
  unfold execStop at h
  split at h
  · cases h; exact ⟨‹_›, rfl⟩
  · cases h

theorem standbyOk_cases {x : Nibble} (h : standbyOk x = true) : x = 0 ∨ x = 1 := by revert x; decide

/-- Everything an instruction can do when it goes on, in five shapes: it writes a register; it only sets CY and Z
(arithmetic with CMP = 1); it stores to data memory; it sets the skip flag; it changes control state only. -/
theorem exec_cases {i : Instr} {s t : State} (h : exec i s = .next t) :
    (∃ r v cy z, destReg i = some r ∧ t = (writeReg r v (s.setFlags s.bcd s.cmp cy z)).advancePc ∧
      (isArith i = false → z = s.z) ∧ (isArith i = false → i ≠ .rorc r → cy = s.cy) ∧
      (isArith i = true → s.cmp = false)) ∨
    (∃ cy z, isArith i = true ∧ s.cmp = true ∧ t = (s.setFlags s.bcd s.cmp cy z).advancePc) ∨
    (∃ m v u cy z, storeAddr i = some m ∧ dmWrite m v (s.setFlags s.bcd s.cmp cy z) = .ok u ∧ t = u.advancePc ∧
      (isArith i = false → cy = s.cy ∧ z = s.z) ∧ (isArith i = true → s.cmp = false)) ∨
    (∃ m n b, (i = .skt m n ∨ i = .skf m n) ∧ t = ((s.setFlags s.bcd false s.cy s.z).setSkip b).advancePc) ∨
    (∃ m n b, (i = .ske m n ∨ i = .skne m n ∨ i = .skge m n ∨ i = .sklt m n) ∧ t = (s.setSkip b).advancePc) ∨
    (∃ addr, i = .br addr ∧ t = s.setPc (targetOf addr)) ∨
    (∃ addr, i = .call addr ∧ s.depth ≠ 1 ∧ t = (s.setStack (s.pc + 1) 1).setPc (targetOf addr)) ∨
    (i = .ret ∧ s.depth ≠ 0 ∧ t = (s.setStack s.asr 0).setPc s.asr) ∨
    (i = .retsk ∧ s.depth ≠ 0 ∧ t = ((s.setStack s.asr 0).setPc s.asr).setSkip true) ∨
    (i = .nop ∧ t = s.advancePc) ∨
    (∃ x m, i = .halt x ∧ t = s.advancePc.setRun m ∧ (m = s.run ∨ ∃ b, m = .halt b)) ∨
    (i = .stop 1 ∧ ∃ m, t = s.advancePc.setRun m ∧ (m = s.run ∨ m = .stop true)) ∨
    (i = .stop 0 ∧ t = enterStopReset s) := by
  have arithR : ∀ {alu c r m}, isArith i = true → destReg i = some r → arithRM alu c r m s = .next t →
      (∃ r v cy z, destReg i = some r ∧ t = (writeReg r v (s.setFlags s.bcd s.cmp cy z)).advancePc ∧
        (isArith i = false → z = s.z) ∧ (isArith i = false → i ≠ .rorc r → cy = s.cy) ∧
        (isArith i = true → s.cmp = false)) ∨
      (∃ cy z, isArith i = true ∧ s.cmp = true ∧ t = (s.setFlags s.bcd s.cmp cy z).advancePc) := by
    intro alu c r m ha hd h
    obtain ⟨b, u, hb, hu, rfl⟩ := arithRM_next h
    rcases arithCommit_cases hu with ⟨hc, rfl⟩ | ⟨hc, hw⟩
    · exact .inr ⟨_, _, ha, hc, rfl⟩
    · rw [dmWrite_regAddr] at hw
      cases hw
      exact .inl ⟨r, _, _, _, hd, rfl, by simp [ha], by simp [ha], fun _ => hc⟩
  have arithM : ∀ {alu c m n4}, isArith i = true → storeAddr i = some m → arithMI alu c m n4 s = .next t →
      (∃ cy z, isArith i = true ∧ s.cmp = true ∧ t = (s.setFlags s.bcd s.cmp cy z).advancePc) ∨
      (∃ m v u cy z, storeAddr i = some m ∧ dmWrite m v (s.setFlags s.bcd s.cmp cy z) = .ok u ∧ t = u.advancePc ∧
        (isArith i = false → cy = s.cy ∧ z = s.z) ∧ (isArith i = true → s.cmp = false)) := by
    intro alu c m n4 ha hd h
    obtain ⟨b, u, hb, hu, rfl⟩ := arithMI_next h
    rcases arithCommit_cases hu with ⟨hc, rfl⟩ | ⟨hc, hw⟩
    · exact .inl ⟨_, _, ha, hc, rfl⟩
    · exact .inr ⟨m, _, u, _, _, hd, hw, rfl, by simp [ha], fun _ => hc⟩
  have same : s.setFlags s.bcd s.cmp s.cy s.z = s := rfl
  have reg : ∀ {r v}, isArith i = false → destReg i = some r → t = (writeReg r v s).advancePc →
      ∃ r v cy z, destReg i = some r ∧ t = (writeReg r v (s.setFlags s.bcd s.cmp cy z)).advancePc ∧
        (isArith i = false → z = s.z) ∧ (isArith i = false → i ≠ .rorc r → cy = s.cy) ∧
        (isArith i = true → s.cmp = false) :=
    fun {r v} ha hd h => ⟨r, v, s.cy, s.z, hd, by rw [same]; exact h, fun _ => rfl, fun _ _ => rfl, by simp [ha]⟩
  have store : ∀ {m v}, isArith i = false → storeAddr i = some m → thenAdvance (dmWrite m v s) = .next t →
      ∃ m v u cy z, storeAddr i = some m ∧ dmWrite m v (s.setFlags s.bcd s.cmp cy z) = .ok u ∧ t = u.advancePc ∧
        (isArith i = false → cy = s.cy ∧ z = s.z) ∧ (isArith i = true → s.cmp = false) := by
    intro m v ha hd h
    obtain ⟨u, hu, rfl⟩ := thenAdvance_next h
    exact ⟨m, v, u, s.cy, s.z, hd, by rw [same]; exact hu, rfl, by simp, by simp [ha]⟩
  have logic : ∀ {f m n4}, logicMI f m n4 s = .next t → ∃ v, thenAdvance (dmWrite m v s) = .next t := by
    intro f m n4 h
    obtain ⟨a, u, -, hu, rfl⟩ := logicMI_next h
    exact ⟨_, by rw [hu]; rfl⟩
  cases i with
  | addRM r m => rcases arithR rfl rfl h with h | h <;> simp only [h, true_or, or_true]
  | addcRM r m => rcases arithR rfl rfl h with h | h <;> simp only [h, true_or, or_true]
  | subRM r m => rcases arithR rfl rfl h with h | h <;> simp only [h, true_or, or_true]
  | subcRM r m => rcases arithR rfl rfl h with h | h <;> simp only [h, true_or, or_true]
  | addMI m n4 => rcases arithM rfl rfl h with h | h <;> simp only [h, true_or, or_true]
  | addcMI m n4 => rcases arithM rfl rfl h with h | h <;> simp only [h, true_or, or_true]
  | subMI m n4 => rcases arithM rfl rfl h with h | h <;> simp only [h, true_or, or_true]
  | subcMI m n4 => rcases arithM rfl rfl h with h | h <;> simp only [h, true_or, or_true]
  | orRM r m => obtain ⟨b, -, ht⟩ := logicRM_next h; exact .inl (reg rfl rfl ht)
  | andRM r m => obtain ⟨b, -, ht⟩ := logicRM_next h; exact .inl (reg rfl rfl ht)
  | xorRM r m => obtain ⟨b, -, ht⟩ := logicRM_next h; exact .inl (reg rfl rfl ht)
  | orMI m n4 => obtain ⟨v, hv⟩ := logic h; exact .inr (.inr (.inl (store rfl rfl hv)))
  | andMI m n4 => obtain ⟨v, hv⟩ := logic h; exact .inr (.inr (.inl (store rfl rfl hv)))
  | xorMI m n4 => obtain ⟨v, hv⟩ := logic h; exact .inr (.inr (.inl (store rfl rfl hv)))
  | st m r => exact .inr (.inr (.inl (store rfl rfl (readRegThen_next (addressThen_next h).2))))
  | mov m n4 => exact .inr (.inr (.inl (store rfl rfl h)))
  | ld r m =>
    obtain ⟨v, -, ht⟩ := readThen_next h
    cases ht
    exact .inl (reg rfl rfl rfl)
  | rorc r =>
    cases readRegThen_next h
    exact .inl ⟨r, rotateRight s.cy (readReg r s), (readReg r s).getLsbD 0, s.z, rfl, rfl, fun _ => rfl, fun _ hne => absurd rfl hne, by simp [isArith]⟩
  | skt m n =>
    obtain ⟨v, u, -, -, ht⟩ := judge_next h
    exact .inr (.inr (.inr (.inl ⟨m, n, _, .inl rfl, ht⟩)))
  | skf m n =>
    obtain ⟨v, u, -, -, ht⟩ := judge_next h
    exact .inr (.inr (.inr (.inl ⟨m, n, _, .inr rfl, ht⟩)))
  | ske m n =>
    obtain ⟨v, -, ht⟩ := compareSkip_next h
    exact .inr (.inr (.inr (.inr (.inl ⟨m, n, _, by simp, ht⟩))))
  | skne m n =>
    obtain ⟨v, -, ht⟩ := compareSkip_next h
    exact .inr (.inr (.inr (.inr (.inl ⟨m, n, _, by simp, ht⟩))))
  | skge m n =>
    obtain ⟨v, -, ht⟩ := compareSkip_next (test := fun v k => decide (k.toNat ≤ v.toNat)) h
    exact .inr (.inr (.inr (.inr (.inl ⟨m, n, _, by simp, ht⟩))))
  | sklt m n =>
    obtain ⟨v, -, ht⟩ := compareSkip_next (test := fun v k => decide (v.toNat < k.toNat)) h
    exact .inr (.inr (.inr (.inr (.inl ⟨m, n, _, by simp, ht⟩))))
  | br addr => have := (execBr_next h).2; simp [this]
  | call addr => have := (execCall_next h).2; simp [this]
  | ret => have := execRet_next h; simp [this]
  | retsk => have := execRetsk_next h; simp [this]
  | nop => cases h; simp
  | halt x =>
    obtain ⟨-, ht⟩ := execHalt_next h
    refine .inr (.inr (.inr (.inr (.inr (.inr (.inr (.inr (.inr (.inr (.inl ⟨x, _, rfl, ht, ?_⟩))))))))))
    split
    · split <;> simp
    · simp
  | stop x =>
    obtain ⟨hx, ht⟩ := execStop_next h
    rcases standbyOk_cases hx with rfl | rfl
    · have ht' : t = enterStopReset s := ht
      simp [ht']
    · refine .inr (.inr (.inr (.inr (.inr (.inr (.inr (.inr (.inr (.inr (.inr (.inl ⟨rfl, _, ht, ?_⟩)))))))))))
      split <;> simp

theorem tickOut_next {o : Out} {t : State} (h : tickOut o = .next t) : ∃ u, o = .next u ∧ t = u.tick := by
  cases o with
  | next u => cases h; exact ⟨u, rfl, rfl⟩
  | fault f => cases h
  | refused r => cases h

theorem fetchInstr_ok {s : State} {i : Instr} (h : fetchInstr s = .ok i) :
    ∃ w, s.rom.read s.pc.toNat = some w ∧ decode w = .ok i := by
  unfold fetchInstr at h
  split at h
  · cases h
  · split at h
    · cases h
    · cases h
      exact ⟨_, ‹_›, ‹_›⟩

/-- Everything a step that answers a next state can be. -/
theorem step_cases {s t : State} (h : step s = .next t) :
    (resetLevel s = false ∧ t = (resetStep s).tick) ∨
    (resetLevel s = true ∧ s.run ≠ .operating ∧ t = (idleStep s).tick) ∨
    (resetLevel s = true ∧ s.run = .operating ∧ s.skipPending = true ∧ t = (skipSlot s).tick) ∨
    (resetLevel s = true ∧ s.run = .operating ∧ s.skipPending = false ∧
      ∃ i u, fetchInstr s = .ok i ∧ exec i s = .next u ∧ t = u.tick) := by
  unfold step at h
  cases hr : resetLevel s
  · simp only [hr, if_true] at h
    cases h
    simp
  · simp only [hr, Bool.true_eq_false, if_false] at h
    by_cases ho : s.run = .operating
    · simp only [ho, if_true] at h
      unfold operate at h
      cases hs : s.skipPending
      · simp only [hs, Bool.false_eq_true, if_false] at h
        cases hf : fetchInstr s with
        | error f => simp [hf] at h
        | ok i =>
          simp only [hf] at h
          obtain ⟨u, hu, rfl⟩ := tickOut_next h
          exact .inr (.inr (.inr ⟨rfl, ho, rfl, i, u, rfl, hu, rfl⟩))
      · simp only [hs, if_true] at h
        cases h
        exact .inr (.inr (.inl ⟨rfl, ho, rfl, rfl⟩))
    · simp only [ho, if_false] at h
      cases h
      exact .inr (.inl ⟨rfl, ho, rfl⟩)

end Sys2Proof.Machine
end

