-- ==== Sys2Proof/Tests/Slice0.lean ====
section
/-! SUPPORT. The model's own tests. Expected values stand in the spec: X<n>, V<n> are the vectors of
spec/95_test_vectors.md; words are read from the encodings of spec/30_encoding.md R103, R106, R107. -/

namespace Sys2Proof.Tests

open Sys2Proof Sys2Proof.Machine Sys2Proof.Claims

/-! ## Well-formedness -/

theorem test_wf_branch_high_bits : (Instr.br 0x200).wf = false ∧ (Instr.br 0x1FF).wf = true := by decide
theorem test_wf_call_high_bits : (Instr.call 0x400).wf = false ∧ (Instr.call 0x1FF).wf = true := by decide
theorem test_wf_stop_operand : (Instr.stop 2).wf = false ∧ (Instr.stop 1).wf = true := by decide
theorem test_wf_halt_operand : (Instr.halt 8).wf = false ∧ (Instr.halt 1).wf = true := by decide

/-! ## Decoding: one word of each constructor, written out field by field (ooooo RRR CCCC xxxx) -/

theorem test_decode_addRM : decode 0b00000_000_0010_0001 = .ok (.addRM 1 0x02) := by decide
theorem test_decode_subRM : decode 0b00001_010_0011_0001 = .ok (.subRM 1 0x23) := by decide
theorem test_decode_addcRM : decode 0b00010_111_1111_0010 = .ok (.addcRM 2 0x7F) := by decide
theorem test_decode_subcRM : decode 0b00011_000_0010_0001 = .ok (.subcRM 1 0x02) := by decide
theorem test_decode_andRM : decode 0b00100_000_0010_0001 = .ok (.andRM 1 0x02) := by decide
theorem test_decode_xorRM : decode 0b00101_000_0001_0001 = .ok (.xorRM 1 0x01) := by decide
theorem test_decode_orRM : decode 0b00110_000_0010_0001 = .ok (.orRM 1 0x02) := by decide
theorem test_decode_rorc : decode 0b00111_000_0111_1001 = .ok (.rorc 9) := by decide
theorem test_decode_ret : decode 0b00111_000_1110_0000 = .ok .ret := by decide
theorem test_decode_retsk : decode 0b00111_001_1110_0000 = .ok .retsk := by decide
theorem test_decode_stop : decode 0b00111_010_1111_0001 = .ok (.stop 1) := by decide
theorem test_decode_halt : decode 0b00111_011_1111_0001 = .ok (.halt 1) := by decide
theorem test_decode_nop : decode 0b00111_100_1111_0000 = .ok .nop := by decide
theorem test_decode_ld : decode 0b01000_111_1110_0001 = .ok (.ld 1 0x7E) := by decide
theorem test_decode_ske : decode 0b01001_000_0001_1010 = .ok (.ske 0x01 0b1010) := by decide
theorem test_decode_skne : decode 0b01011_000_0001_1000 = .ok (.skne 0x01 0b1000) := by decide
theorem test_decode_br : decode 0b01100_00_111111110 = .ok (.br 0x1FE) := by decide
theorem test_decode_addMI : decode 0b10000_000_0101_1111 = .ok (.addMI 0x05 0b1111) := by decide
theorem test_decode_subMI : decode 0b10001_000_0001_0100 = .ok (.subMI 0x01 4) := by decide
theorem test_decode_addcMI : decode 0b10010_000_0101_1001 = .ok (.addcMI 0x05 9) := by decide
theorem test_decode_subcMI : decode 0b10011_000_0101_0000 = .ok (.subcMI 0x05 0) := by decide
theorem test_decode_andMI : decode 0b10100_111_0001_1011 = .ok (.andMI 0x71 0b1011) := by decide
theorem test_decode_xorMI : decode 0b10101_111_1111_0100 = .ok (.xorMI 0x7F 0b0100) := by decide
theorem test_decode_orMI : decode 0b10110_111_1111_1010 = .ok (.orMI 0x7F 0b1010) := by decide
theorem test_decode_st : decode 0b11000_111_0010_0001 = .ok (.st 0x72 1) := by decide
theorem test_decode_skge : decode 0b11001_000_0001_0111 = .ok (.skge 0x01 0b0111) := by decide
theorem test_decode_sklt : decode 0b11011_000_0001_1001 = .ok (.sklt 0x01 0b1001) := by decide
theorem test_decode_call : decode 0b11100_00_000000101 = .ok (.call 0x005) := by decide
theorem test_decode_mov : decode 0b11101_111_0001_1011 = .ok (.mov 0x71 0b1011) := by decide
theorem test_decode_skt : decode 0b11110_000_0001_1101 = .ok (.skt 0x01 0b1101) := by decide
theorem test_decode_skf : decode 0b11111_000_0001_0110 = .ok (.skf 0x01 0b0110) := by decide

/-- V86, V93 to V95. -/
theorem test_decode_refuses :
    decode 0x6200 = .error (.branchHighBits 0x6200) ∧ decode 0x5000 = .error (.unusedOpcode 0x5000) ∧
    decode 0x38E1 = .error (.undefinedSystemWord 0x38E1) ∧ decode 0x3BF2 = .error (.standbyOperand 0x3BF2) := by decide

/-- Words of X1, X9, P1 and V87. -/
theorem test_encode :
    encode (.orMI 0x7F 0b1010) = 0xB7FA ∧ encode (.rorc 1) = 0x3871 ∧ encode (.addcMI 0x04 0) = 0x9040 ∧
    encode (.call 0x1FF) = 0xE1FF := by decide

theorem test_decode_table_word : decodeTableWord 16 0x3BF1 = some (.halt 1) ∧ decodeTableWord 16 0x3FFF = none := by decide

/-! ## Instructions: one step each, through the word -/

/-- The start state of the derived vectors: at 020H, with these flags and RAM[1], RAM[2], RAM[5]. -/
def start (bcd cmp cy z : Bool) (r1 r2 r5 : Nibble) : State :=
  (((({ State.reset with pc := 0x020 }).setFlags bcd cmp cy z).setRam 1 r1).setRam 2 r2).setRam 5 r5

/-- The port pins as an environment drives them: ports 0B, 0C, 0D. -/
def drivenPins (b : BitVec 3) (c d : Nibble) : PinSample :=
  { p0b0 := .driven (b.getLsbD 0), p0b1 := .driven (b.getLsbD 1), p0b2 := .driven (b.getLsbD 2)
    p0c0 := .driven (c.getLsbD 0), p0c1 := .driven (c.getLsbD 1)
    p0c2 := .driven (c.getLsbD 2), p0c3 := .driven (c.getLsbD 3)
    p0d0 := .driven (d.getLsbD 0), p0d1 := .driven (d.getLsbD 1)
    p0d2 := .driven (d.getLsbD 2), p0d3 := .driven (d.getLsbD 3)
    reset := .driven true }

/-- One step on the word answers a next state that `p` accepts. -/
def runs (w : Nat) (s : State) (p : State → Bool) : Bool :=
  match step (s.withFetchWord 16 w) with
  | .next t => p t
  | .fault _ | .refused _ => false

/-- One step answers this fault. -/
def faultsWith (o : Out) (f : Fault) : Bool :=
  match o with
  | .fault g => f == g
  | .next _ | .refused _ => false

/-- Register, CY, Z. -/
def shows (r : Fin 16) (v : Nibble) (cy z : Bool) (t : State) : Bool :=
  t.ram[r] == v && t.cy == cy && t.z == z && t.pc == 0x021

/-- Skip flag, CMP, CY, Z. -/
def skips (skip cmp cy z : Bool) (t : State) : Bool :=
  t.skipPending == skip && t.cmp == cmp && t.cy == cy && t.z == z && t.pc == 0x021

/-- V2. -/
theorem test_addRM_carry : runs 0x0021 (start false false false false 8 8 0) (shows 1 0 true true) = true := by decide
/-- V11. -/
theorem test_addRM_cmp : runs 0x0021 (start false true false true 8 8 0) (shows 1 8 true true) = true := by decide
/-- V15. -/
theorem test_addMI : runs 0x805F (start false false false false 0 0 1) (shows 5 0 true true) = true := by decide
/-- V37. -/
theorem test_addMI_psw : runs 0x87FC (start false false true false 0 0 0)
    (fun t => !t.cmp && !t.cy && !t.z) = true := by decide
/-- V16. -/
theorem test_addcRM : runs 0x1021 (start false false true false 15 15 0) (shows 1 15 true false) = true := by decide
/-- V18. -/
theorem test_addcRM_decimal : runs 0x1021 (start true false true false 9 9 0) (shows 1 9 true false) = true := by decide
/-- V20. -/
theorem test_addcMI : runs 0x9059 (start true false true false 0 0 9) (shows 5 9 true false) = true := by decide
/-- V22. -/
theorem test_subRM_borrow : runs 0x0821 (start false false false false 0 1 0) (shows 1 15 true false) = true := by decide
/-- V26. -/
theorem test_subRM_decimal : runs 0x0821 (start true false false false 15 0 0) (shows 1 13 true false) = true := by decide
/-- V29. -/
theorem test_subMI_cmp : runs 0x8854 (start false true false true 0 0 5) (shows 5 5 false false) = true := by decide
/-- V31. -/
theorem test_subcRM : runs 0x1821 (start false false true false 0 15 0) (shows 1 0 true true) = true := by decide
/-- V35. -/
theorem test_subcMI : runs 0x9850 (start false false true false 0 0 0) (shows 5 15 true false) = true := by decide
/-- V49. -/
theorem test_orRM : runs 0x3021 (start true true true true 10 6 0) (shows 1 14 true true) = true := by decide
/-- V53. -/
theorem test_orMI : runs 0xB05F (start false false false false 0 0 0) (shows 5 15 false false) = true := by decide
/-- V50. -/
theorem test_andRM : runs 0x2021 (start false false false false 10 5 0) (shows 1 0 false false) = true := by decide
/-- X12: the AND reads the pins and writes them to the latch. -/
theorem test_andMI_port : runs 0xA71B
    { start false false false false 0 0 0 with latchB := 0b111, modeB := .output, pins := drivenPins 0b100 0 0 }
    (fun t => t.latchB == 0 && readPortB t == 0) = true := by decide
/-- V51. -/
theorem test_xorRM : runs 0x2811 (start false false false false 13 0 0) (shows 1 0 false false) = true := by decide
/-- V55. -/
theorem test_xorMI_psw : runs 0xAFF4 (start false false true true 0 0 0)
    (fun t => !t.cy && t.z && !t.cmp) = true := by decide
/-- V59. -/
theorem test_skt : runs 0xF05F (start false true false false 0 0 7) (skips false false false false) = true := by decide
/-- V61. -/
theorem test_skt_flags : runs 0xF7F6 (start false true true true 0 0 0) (skips true false true true) = true := by decide
/-- V60. -/
theorem test_skf : runs 0xF858 (start false false false false 0 0 7) (skips true false false false) = true := by decide
/-- V65: bit 3 of 71H reads 0. -/
theorem test_skf_port : runs 0xFF18 { start false false false false 0 0 0 with pins := drivenPins 7 0 0 }
    (skips true false false false) = true := by decide
/-- V62, for the two orders that the spec names. -/
theorem test_skt_cmp_bit :
    runs 0xF7F8 { start false true false false 0 0 0 with params := { defaultParams with sktCmpOrder := .readThenClear } }
      (skips true false false false) = true ∧
    runs 0xF7F8 { start false true false false 0 0 0 with params := { defaultParams with sktCmpOrder := .clearThenRead } }
      (skips false false false false) = true := by decide
/-- V66. -/
theorem test_ske : runs 0x4850 (start false false true false 0 0 0) (skips true false true false) = true := by decide
/-- V67. -/
theorem test_skne : runs 0x585F (start false false false false 0 0 15) (skips false false false false) = true := by decide
/-- V70. -/
theorem test_skge : runs 0xC859 (start true false false false 0 0 10) (skips true false false false) = true := by decide
/-- V72. -/
theorem test_sklt : runs 0xD85F (start false false false false 0 0 14) (skips true false false false) = true := by decide
/-- V74. -/
theorem test_rorc : runs 0x3871 (start false true false true 1 0 0) (shows 1 0 true true) = true := by decide
/-- X9. -/
theorem test_rorc_carry_in : runs 0x3871 (start false false true false 12 0 0) (shows 1 14 false false) = true := by decide
/-- V46. -/
theorem test_ld_psw : runs 0x47F1 (start false true false true 0 0 0) (shows 1 10 false true) = true := by decide
/-- V79. -/
theorem test_st_port : runs 0xC721 (start false false false false 6 0 0)
    (fun t => t.latchC == 6 && t.modeC == .output && t.modeB == .input && t.modeD == .input) = true := by decide
/-- V80. -/
theorem test_mov_port : runs 0xEF1F (start false false false false 0 0 0)
    (fun t => t.latchB == 7 && t.modeB == .output) = true := by decide
/-- V45. -/
theorem test_mov_fixed_zero : runs 0xEF4F (start true false true false 3 0 0)
    (fun t => dmRead 0x74 t == .ok 0 && shows 1 3 true false t) = true := by decide
/-- V85. -/
theorem test_br : runs 0x61FF (start false false false false 0 0 0) (fun t => t.pc == 0x1FF) = true := by decide
/-- V87. -/
theorem test_call : runs 0xE1FF (start false false false false 0 0 0)
    (fun t => t.pc == 0x1FF && t.asr == 0x021 && t.depth == 1) = true := by decide
/-- V90. -/
theorem test_ret : runs 0x38E0 { start false false false false 0 0 0 with depth := 1, asr := 0x155 }
    (fun t => t.pc == 0x155 && t.depth == 0 && !t.skipPending) = true := by decide
/-- V91. -/
theorem test_retsk : runs 0x39E0 { start false false false false 0 0 0 with depth := 1, asr := 0x1FF }
    (fun t => t.pc == 0x1FF && t.depth == 0 && t.skipPending) = true := by decide
/-- V88, V89. -/
theorem test_stack_faults :
    faultsWith (step (({ start false false false false 0 0 0 with depth := 1, asr := 0x005 }).withFetchWord 16 0xE1FF))
      (.stackOverflow 0x020) = true ∧
    faultsWith (step ((start false false false false 0 0 0).withFetchWord 16 0x38E0)) (.stackUnderflow 0x020) = true := by
  decide
/-- V104. -/
theorem test_nop_wraps : runs 0x3CF0 { State.reset with pc := 0x1FF } (fun t => t.pc == 0) = true := by decide
/-- V99, V100. -/
theorem test_halt :
    runs 0x3BF1 { start false false false false 0 0 0 with pins := drivenPins 0 0 0 }
      (fun t => t.run == .halt true && t.pc == 0x021) = true ∧
    runs 0x3BF1 { start false false false false 0 0 0 with pins := drivenPins 1 0 0 }
      (fun t => t.run == .operating && t.pc == 0x021) = true := by decide
/-- V101. -/
theorem test_stop : runs 0x3AF1 { start false false false false 0 0 0 with pins := drivenPins 0b101 0 0 }
    (fun t => t.run == .stop true && t.pc == 0x021) = true := by decide
/-- V103. -/
theorem test_stop_reset : runs 0x3AF0
    { start true false true true 3 0 0 with modeC := .output, latchC := 15, depth := 1 }
    (fun t => t.pc == 0 && !t.bcd && !t.cy && !t.z && t.modeC == .input && t.latchC == 15 && t.ram[1] == 3 &&
      t.depth == 0 && t.run == .stop false) = true := by decide
/-- V82. -/
theorem test_unmapped : faultsWith (step ((start false false false false 0 0 0).withFetchWord 16 0x4101))
    (.unmappedDataMemory 0x10) = true := by decide

/-- P7: with `UNDEFINED_READ` at its default, ADD 0, 01H after a reset of kind A is UndefinedRead(00H); with any_value it
completes. -/
theorem test_undefined_read :
    faultsWith (step (({ State.reset with params := { defaultParams with undefinedRead := .fault } }).withFetchWord 16 0x0010))
      (.undefinedRead 0x00) = true ∧
    runs 0x0010 State.reset (fun t => t.pc == 0x001) = true := by decide
/-- R222: the operand address comes before the undefined read. -/
theorem test_fault_order :
    faultsWith (exec (.addRM 0 0x10) { State.reset with params := { defaultParams with undefinedRead := .fault } })
      (.unmappedDataMemory 0x10) = true ∧
    faultsWith (exec (.st 0x70 0) { State.reset with params := { defaultParams with undefinedRead := .fault } })
      (.unmappedDataMemory 0x70) = true := by decide

/-! ## Steps -/

/-- V96: a skipped word is not decoded. -/
theorem test_skip_slot :
    step { start false false false false 0 0 0 with skipPending := true, rom := [(0x020, 0x5000)] } =
      .next { start false false false false 0 0 0 with pc := 0x021, rom := [(0x020, 0x5000)], time := 1 } := by rfl

/-- R260, R233: RESET low holds the reset state, then the wait, then operation. -/
theorem test_reset_entry : runs 0x3CF0 (start true true true true 0 0 0) (fun t => t.run == .operating) = true ∧
    (match step { start true true true true 0 0 0 with pins := { quietPins with reset := .driven false } } with
      | .next t => t.run == .reset && t.pc == 0 && !t.bcd && !t.cmp && !t.cy && !t.z
      | .fault _ | .refused _ => false) = true := by decide

/-- The ROM's canonical form: a word placed between two others. -/
theorem test_rom_write : Rom.write [(1, 0xA), (5, 0xB)] 3 0xC = [(1, 0xA), (3, 0xC), (5, 0xB)] ∧
    Rom.wf [(1, 0xA), (3, 0xC), (5, 0xB)] = true ∧ Rom.wf [(3, 0xA), (3, 0xB)] = false := by decide

/-! ## Witnesses: for each statement that has hypotheses, values that meet them; for a statement of several clauses, values
of each clause at the ends of its range -/

/-- The start state with all flags 0. -/
def base : State := start false false false false 8 8 5

/-- The start state with BCD, CMP, CY, Z all 1. -/
def flagged : State := start true true true true 8 8 5

/-- The start state with `UNMAPPED_DM` at its other value. -/
def permissive : State := { base with params := { defaultParams with unmappedDm := .readZeroWriteIgnored } }

/-- The start state with this order of `SKT_CMP_ORDER`. -/
def ordered (o : SktCmpOrder) : State := { base with params := { defaultParams with sktCmpOrder := o } }

/-- The start state with `UNDEFINED_READ` at the spec's default; only RAM[1], RAM[2], RAM[5] have been written. -/
def strict : State := { base with params := { defaultParams with undefinedRead := .fault } }

/-- RESET is low. -/
def resetLow (s : State) : State := { s with pins := { s.pins with reset := .driven false } }

theorem witness_DecodeReadsBackEveryEncoding :
    (Instr.br 0x1FF).wf = true ∧ (Instr.call 0).wf = true ∧ (Instr.stop 1).wf = true ∧ (Instr.addRM 15 0x7F).wf = true := by
  decide

theorem witness_EncodeReadsBackEveryDecoding : decode 0xE1FF = .ok (.call 0x1FF) := by decide

theorem witness_ReservedWordsAreRefusedByName :
    (∀ w ∈ [(0x5000 : Word), 0x57FF, 0xD7FF], w.extractLsb' 11 5 ∈ [0b01010, 0b01101, 0b01110, 0b01111, 0b10111, 0b11010]) ∧
    (∀ w ∈ [(0x6200 : Word), 0xE7FF], w.extractLsb' 11 5 ∈ [0b01100, 0b11100] ∧ w.extractLsb' 9 2 ≠ 0) ∧
    (∀ w ∈ [(0x3AF2 : Word), 0x3BFF], w.extractLsb' 4 12 ∈ [0x3AF, 0x3BF] ∧ w.extractLsb' 1 3 ≠ 0) ∧
    (∀ w ∈ [(0x3800 : Word), 0x38E1, 0x3FFF], w.extractLsb' 11 5 = 0b00111 ∧ w.extractLsb' 4 12 ∉ [0x387, 0x3AF, 0x3BF] ∧
      w ∉ [0x38E0, 0x39E0, 0x3CF0]) := by simp

theorem witness_DataMemoryReadFollowsTheMap :
    ((0x0F : DAddr).toNat < 16 ∧ base.params.undefinedRead = .anyValue ∧ unwritten strict 0x05 = false) ∧
    (strict.params.undefinedRead = .fault ∧ unwritten strict 0x00 = true ∧ unwritten strict 0x0F = true) ∧
    0x10 ≤ (0x10 : DAddr).toNat ∧ (0x70 : DAddr).toNat ≤ 0x70 ∧
    base.params.unmappedDm = .fault ∧ permissive.params.unmappedDm = .readZeroWriteIgnored ∧
    0x74 ≤ (0x74 : DAddr).toNat ∧ (0x7D : DAddr).toNat ≤ 0x7D := by decide

/-- At the ends of each range a read answers what its clause says. -/
theorem test_read_ends :
    dmRead 0x00 base = .ok 0 ∧ dmRead 0x05 base = .ok 5 ∧ dmRead 0x0F base = .ok 0 ∧
    dmRead 0x05 strict = .ok 5 ∧ dmRead 0x00 strict = .error (.undefinedRead 0x00) ∧
    dmRead 0x0F strict = .error (.undefinedRead 0x0F) ∧
    dmRead 0x10 base = .error (.unmappedDataMemory 0x10) ∧ dmRead 0x70 base = .error (.unmappedDataMemory 0x70) ∧
    dmRead 0x10 permissive = .ok 0 ∧ dmRead 0x70 permissive = .ok 0 ∧ dmRead 0x74 base = .ok 0 ∧ dmRead 0x7D base = .ok 0 ∧
    dmRead 0x7E flagged = .ok 1 ∧ dmRead 0x7F flagged = .ok 0b1110 := by decide

/-- The pins of ports 0B, 0C, 0D, bit 0 first. -/
theorem test_read_pins :
    dmRead 0x71 { base with pins := drivenPins 0b001 0b0010 0b0100 } = .ok 0b0001 ∧
    dmRead 0x72 { base with pins := drivenPins 0b001 0b0010 0b0100 } = .ok 0b0010 ∧
    dmRead 0x73 { base with pins := drivenPins 0b001 0b0010 0b0100 } = .ok 0b0100 := by decide

theorem witness_DataMemoryWriteFollowsTheMap :
    (∀ a ∈ [(0x10 : DAddr), 0x70], 0x10 ≤ a.toNat ∧ a.toNat ≤ 0x70 ∧ base.params.unmappedDm = .fault) ∧
    (∀ a ∈ [(0x00 : DAddr), 0x0F, 0x71, 0x72, 0x73, 0x74, 0x7D, 0x7E, 0x7F], a.toNat < 0x10 ∨ 0x70 < a.toNat) ∧
    permissive.params.unmappedDm = .readZeroWriteIgnored := by decide

theorem witness_WriteIsSeenAtItsAddressOnly :
    (∃ t, dmWrite 0x0F 5 base = .ok t) ∧ (∃ t, dmWrite 0x7F 5 base = .ok t) ∧ (0x0F : DAddr).toNat < 16 ∧
    (0x7E : DAddr) ≠ 0x7F := ⟨⟨_, rfl⟩, ⟨_, rfl⟩, by decide, by decide⟩

theorem witness_OpenDrainPinLevels :
    let out : State := { base with modeB := .output, latchB := 0b110, pins := drivenPins 0b010 0 0 }
    let up : State := { base with params := { defaultParams with pullUpP0B2 := true } }
    (out.modeB = .output ∧ out.latchB.getLsbD 0 = false) ∧
    (out.latchB.getLsbD 1 = true ∧ extDrive out.pins .p0b1 = .driven true) ∧
    (up.modeB = .input ∧ extDrive up.pins .p0b2 = .undriven ∧ up.params.pullUpP0B2 = true ∧ up.params.pullUpP0B1 = false) := by
  decide

theorem witness_PushPullPinLevels :
    let out : State := { base with modeD := .output, latchD := 1, pins := { drivenPins 0 0 2 with p0d3 := .forced true } }
    base.modeC = .input ∧ extDrive out.pins .p0c0 = .driven false ∧ extDrive base.pins .p0c3 = .undriven ∧
    out.modeD = .output ∧ extDrive out.pins .p0d3 = .forced true ∧ (∀ l, extDrive out.pins .p0d0 ≠ .forced l) := by decide

theorem witness_DecimalChainsComputeDecimalNumbers :
    ∀ d ∈ [((8 : Nibble), (7 : Nibble)), (5, 6), (9, 0), (0, 9)], d.1.toNat ≤ 9 ∧ d.2.toNat ≤ 9 := by simp

/-- Both values of BCD and of CMP; RAM, a port register, a fixed nibble and the PSW. -/
theorem witness_ArithmeticRegisterForms :
    (dmRead (regAddr 1) base = .ok 8 ∧ dmRead 0x02 base = .ok 8) ∧
    (dmRead (regAddr 15) flagged = .ok 0 ∧ dmRead 0x7F flagged = .ok 0b1110) ∧
    (dmRead (regAddr 1) strict = .ok 8 ∧ dmRead 0x05 strict = .ok 5) ∧ base.cmp = false ∧ base.bcd = false ∧
    flagged.cmp = true ∧ flagged.bcd = true := by decide

theorem witness_ArithmeticMemoryForms :
    (dmRead 0x05 base = .ok 5 ∧ base.cmp = false) ∧ (dmRead 0x05 flagged = .ok 5 ∧ flagged.cmp = true) ∧
    (dmRead 0x72 { base with pins := drivenPins 0 9 0 } = .ok 9) := by decide

theorem witness_ArithmeticOnThePsw :
    dmRead 0x7F base = .ok 0 ∧ base.cmp = false ∧ dmRead 0x7F flagged = .ok 14 ∧ flagged.cmp = true ∧
    (∃ t, exec (.addMI 0x7F 2) base = .next t) ∧ (∃ t, exec (.subcMI 0x7F 2) flagged = .next t) :=
  ⟨rfl, rfl, rfl, rfl, ⟨_, rfl⟩, ⟨_, rfl⟩⟩

theorem witness_LogicRegisterForms :
    (dmRead (regAddr 1) base = .ok 8 ∧ dmRead 0x02 base = .ok 8) ∧
    (dmRead (regAddr 15) flagged = .ok 0 ∧ dmRead 0x0F flagged = .ok 0) := by decide

theorem witness_LogicMemoryForms : dmRead 0x05 base = .ok 5 ∧ dmRead 0x7F flagged = .ok 14 := by decide

theorem witness_Transfers :
    dmRead 0x7E flagged = .ok 1 ∧ (∀ m ∈ [(0x00 : DAddr), 0x0F, 0x71, 0x7F], accessible m base = true) ∧
    dmRead (regAddr 1) base = .ok 8 ∧ dmRead (regAddr 2) strict = .ok 8 ∧ accessible 0x10 permissive = true := by decide

theorem witness_RotateRightThroughCarry : dmRead (regAddr 0) base = .ok 0 ∧ dmRead (regAddr 5) strict = .ok 5 := by decide

theorem witness_BitJudgement :
    (dmRead 0x05 base = .ok 5 ∧ ¬ ((0x05 : DAddr) = 0x7F ∧ (0b1111 : Nibble).getLsbD 3 = true)) ∧
    (dmRead 0x7F flagged = .ok 14 ∧ ¬ ((0x7F : DAddr) = 0x7F ∧ (0b0111 : Nibble).getLsbD 3 = true)) := by decide

theorem witness_BitJudgementOfTheCmpBit :
    (0b1000 : Nibble).getLsbD 3 = true ∧ (0b1111 : Nibble).getLsbD 3 = true ∧
    (ordered .readThenClear).params.sktCmpOrder = .readThenClear ∧
    (ordered .clearThenRead).params.sktCmpOrder = .clearThenRead ∧
    (ordered .fault).params.sktCmpOrder = .fault ∧ base.params.sktCmpOrder = .either := by decide

theorem witness_Comparison : dmRead 0x05 base = .ok 5 ∧ dmRead 0x75 base = .ok 0 := by decide

theorem witness_BranchAndCall : (0x1FF : BitVec 11).toNat < 512 ∧ base.depth = 0 := by decide

/-- The state that a CALL from 020H leaves. -/
def called : State := { base with depth := 1, asr := 0x021, pc := 0x100 }

theorem witness_Returns : called.depth = 1 := rfl

theorem witness_ReturnGoesBehindTheCall :
    exec (.call 0x100) base = .next called ∧ (∃ v, exec .ret called = .next v) ∧ ∃ v, exec .retsk called = .next v :=
  ⟨rfl, ⟨_, rfl⟩, ⟨_, rfl⟩⟩

theorem witness_NopHaltStop :
    pinLevel { base with pins := drivenPins 0 0 0 } .p0b0 = false ∧ pinLevel { base with pins := drivenPins 1 0 0 } .p0b0 = true ∧
    pinLevel { base with pins := drivenPins 0 0 0 } .p0b1 = false ∧ pinLevel { base with pins := drivenPins 2 0 0 } .p0b1 = true := by
  decide

theorem witness_StackAndOperandFaults :
    (strict.params.undefinedRead = .fault ∧ (readAddrs (.addRM 0 0x03)).find? (unwritten strict) = some 0x00 ∧
      (readAddrs (.addRM 1 0x0F)).find? (unwritten strict) = some 0x0F ∧ operandAddr (.addRM 0 0x03) = some 0x03 ∧
      accessible 0x03 strict = true) ∧
    called.depth = 1 ∧ (0x1FF : BitVec 11).toNat < 512 ∧ base.depth = 0 ∧ 512 ≤ (0x200 : BitVec 11).toNat ∧
    512 ≤ (0x7FF : BitVec 11).toNat ∧ 2 ≤ (2 : Nibble).toNat ∧ 2 ≤ (15 : Nibble).toNat := by decide

theorem witness_UnmappedOperandFaults :
    operandAddr (.addRM 1 0x10) = some 0x10 ∧ operandAddr (.mov 0x70 3) = some 0x70 ∧ 0x10 ≤ (0x10 : DAddr).toNat ∧
    (0x70 : DAddr).toNat ≤ 0x70 ∧ base.params.unmappedDm = .fault := by decide

/-- One operand and state of each cause of a fault, at the ends of its range, and neighbours that complete. -/
theorem witness_NoInstructionIsRefused :
    ((Instr.br 0x200).wf = false ∧ ∃ f, exec (.br 0x200) base = .fault f) ∧ (∃ t, exec (.br 0x1FF) base = .next t) ∧
    (∃ f, exec (.ld 1 0x10) base = .fault f) ∧ (∃ f, exec (.mov 0x70 1) base = .fault f) ∧
    (∃ t, exec (.ld 1 0x0F) base = .next t) ∧ (∃ t, exec (.mov 0x71 1) base = .next t) ∧
    (∃ t, exec (.ld 1 0x10) permissive = .next t) ∧
    ((∃ f, exec (.st 0x01 0) strict = .fault f) ∧ ∃ t, exec (.st 0x00 1) strict = .next t) ∧
    (∃ f, exec (.call 0x100) called = .fault f) ∧ (∃ t, exec (.call 0x100) base = .next t) ∧
    (∃ f, exec .ret base = .fault f) ∧ (∃ t, exec .ret called = .next t) ∧
    (∃ f, exec (.skt 0x7F 8) (ordered .fault) = .fault f) ∧ (∃ t, exec (.skt 0x7F 7) (ordered .fault) = .next t) ∧
    ∃ t, exec (.skt 0x7F 8) (ordered .readThenClear) = .next t :=
  ⟨⟨by decide, _, rfl⟩, ⟨_, rfl⟩, ⟨_, rfl⟩, ⟨_, rfl⟩, ⟨_, rfl⟩, ⟨_, rfl⟩, ⟨_, rfl⟩, ⟨⟨_, rfl⟩, _, rfl⟩, ⟨_, rfl⟩, ⟨_, rfl⟩,
    ⟨_, rfl⟩, ⟨_, rfl⟩, ⟨_, rfl⟩, ⟨_, rfl⟩, ⟨_, rfl⟩⟩

theorem witness_StoringFormsFrame :
    (storeAddr (.addMI 0x05 1) = some 0x05 ∧ ∃ t, exec (.addMI 0x05 1) base = .next t) ∧
    (∃ t, exec (.addMI 0x05 1) flagged = .next t) ∧ (∃ t, exec (.orMI 0x7F 1) base = .next t) ∧
    (∃ t, exec (.st 0x71 1) base = .next t) ∧ ∃ t, exec (.mov 0x7E 1) base = .next t :=
  ⟨⟨rfl, _, rfl⟩, ⟨_, rfl⟩, ⟨_, rfl⟩, ⟨_, rfl⟩, ⟨_, rfl⟩⟩

theorem witness_RegisterFormsFrame :
    (destReg (.subRM 1 0x02) = some 1 ∧ ∃ t, exec (.subRM 1 0x02) base = .next t) ∧
    (∃ t, exec (.subRM 1 0x02) flagged = .next t) ∧ (∃ t, exec (.rorc 15) base = .next t) ∧
    ∃ t, exec (.ld 0 0x7F) base = .next t :=
  ⟨⟨rfl, _, rfl⟩, ⟨_, rfl⟩, ⟨_, rfl⟩, ⟨_, rfl⟩⟩

theorem witness_SkipInstructionsFrame :
    (∃ t, exec (.skt 0x05 1) base = .next t) ∧ (∃ t, exec (.skf 0x05 1) base = .next t) ∧ ∃ t, exec (.skge 0x05 1) base = .next t :=
  ⟨⟨_, rfl⟩, ⟨_, rfl⟩, ⟨_, rfl⟩⟩

theorem witness_ControlInstructionsFrame :
    (∃ t, exec (.br 0x1FF) base = .next t) ∧ (∃ t, exec (.call 0x1FF) base = .next t) ∧ (∃ t, exec .ret called = .next t) ∧
    (∃ t, exec .retsk called = .next t) ∧ (∃ t, exec .nop base = .next t) ∧ (∃ t, exec (.halt 0) base = .next t) ∧
    ∃ t, exec (.stop 1) base = .next t :=
  ⟨⟨_, rfl⟩, ⟨_, rfl⟩, ⟨_, rfl⟩, ⟨_, rfl⟩, ⟨_, rfl⟩, ⟨_, rfl⟩, ⟨_, rfl⟩⟩

theorem witness_OnlyArithmeticAndRotationChangeZAndCy :
    (∃ t, exec (.addRM 1 0x02) base = .next t ∧ t.z ≠ base.z ∧ t.cy ≠ base.cy) ∧
    ∃ t, exec (.rorc 5) base = .next t ∧ t.cy ≠ base.cy :=
  ⟨⟨_, rfl, by decide, by decide⟩, ⟨_, rfl, by decide⟩⟩

theorem witness_OnlyJudgementResetsCmp :
    (∃ t, exec (.skt 0x05 0) flagged = .next t ∧ t.cmp ≠ flagged.cmp) ∧
    (∃ t, exec (.mov 0x7F 0b1000) base = .next t ∧ t.cmp ≠ base.cmp) ∧ ∃ t, exec (.stop 0) flagged = .next t ∧ t.cmp ≠ flagged.cmp :=
  ⟨⟨_, rfl, by decide⟩, ⟨_, rfl, by decide⟩, ⟨_, rfl, by decide⟩⟩

theorem witness_OnlyAWriteChangesBcd : ∃ t, exec (.mov 0x7E 1) base = .next t ∧ t.bcd ≠ base.bcd := ⟨_, rfl, by decide⟩

theorem witness_PortDirectionRule :
    (∃ t, step { base with rom := [(0x020, 0x3AF0)], modeC := .output } = .next t ∧ t.modeC = .input) ∧
    resetLevel base = true ∧ ∃ t, exec (.st 0x73 1) base = .next t ∧ base.modeD = .input ∧ t.modeD = .output :=
  ⟨⟨_, rfl, rfl⟩, by decide, ⟨_, rfl, by decide, by decide⟩⟩

theorem witness_OnlyCallAndReturnsTouchTheStack :
    (∃ t, exec (.call 0x100) base = .next t ∧ t.asr ≠ base.asr) ∧ ∃ t, exec .ret called = .next t ∧ t.depth ≠ called.depth :=
  ⟨⟨_, rfl, by decide⟩, ⟨_, rfl, by decide⟩⟩

theorem witness_OnlyTransfersLeaveTheNextAddress : ∃ t, exec (.br 0x100) base = .next t ∧ t.pc ≠ base.pc + 1 :=
  ⟨_, rfl, by decide⟩

theorem witness_OnlyHaltAndStopLeaveOperation : ∃ t, exec (.halt 0) base = .next t ∧ t.run ≠ base.run := ⟨_, rfl, by decide⟩

theorem witness_LatchOfAnInputPortIsUnobservable :
    (base.modeB ≠ .output ∧ base.modeC ≠ .output ∧ base.modeD ≠ .output) ∧ (∃ t, exec (.mov 0x72 9) base = .next t) ∧
    ∃ f, exec .ret base = .fault f := ⟨by decide, ⟨_, rfl⟩, ⟨_, rfl⟩⟩

theorem witness_AsrOfAnEmptyStackIsUnobservable :
    base.depth = 0 ∧ (∃ t, exec (.call 0x100) base = .next t ∧ t.depth = 1) ∧ ∃ f, exec .ret base = .fault f :=
  ⟨rfl, ⟨_, rfl, rfl⟩, ⟨_, rfl⟩⟩

theorem witness_StepRunsTheDecodedInstruction :
    let s : State := { base with rom := [(0x020, 0x0021)] }
    resetLevel s = true ∧ s.run = .operating ∧ s.skipPending = false ∧ s.rom.read s.pc.toNat = some 0x0021 ∧
    decode 0x0021 = .ok (.addRM 1 0x02) ∧ (∃ t, exec (.addRM 1 0x02) s = .next t) ∧ ∃ f, exec .ret s = .fault f :=
  ⟨by decide, rfl, rfl, by decide, by decide, ⟨_, rfl⟩, ⟨_, rfl⟩⟩

theorem witness_StepFaultsOnWhatIsNoInstruction :
    resetLevel base = true ∧ base.run = .operating ∧ base.skipPending = false ∧ base.rom.read base.pc.toNat = none ∧
    Rom.read [(0x020, 0x5000)] 0x020 = some 0x5000 ∧ decode 0x5000 = .error (.unusedOpcode 0x5000) := by decide

theorem witness_StepSkipsThePendingSlot :
    let s : State := { base with skipPending := true }
    resetLevel s = true ∧ s.run = .operating ∧ s.skipPending = true := by decide

theorem witness_PlacedWordIsRunNext : decode 0x3CF0 = .ok .nop ∧ base.rom.wf = true := by decide

theorem witness_ResetDuringOperation :
    resetLevel (resetLow base) = false ∧ (resetLow base).run = .operating ∧
    resetLevel (resetLow { base with run := .wait }) = false := by decide

theorem witness_ResetDuringStandbyKeepsData :
    resetLevel (resetLow { base with run := .halt true }) = false ∧ resetLevel (resetLow { base with run := .stop false }) = false := by
  decide

theorem witness_HeldWhileResetIsLow : resetLevel (resetLow { base with run := .reset }) = false := by decide

theorem witness_ExecutionStartsAt000AfterReset :
    let s : State := { State.reset with run := .reset }
    Inv s ∧ s.run = .reset ∧ resetLevel s = true ∧ resetLevel ((s.setRun .wait).tick) = true := by decide

theorem witness_HaltReleaseByPin :
    let s : State := { base with run := .halt true, pins := drivenPins 1 0 0 }
    s.run = .halt true ∧ resetLevel s = true ∧ pinLevel s .p0b0 = true := by decide

theorem witness_StopReleaseByPin :
    let s : State := { base with run := .stop true, pins := drivenPins 2 0 0 }
    resetLevel s = true ∧ pinLevel s .p0b1 = true ∧ resetLevel { s with run := .wait } = true := by decide

theorem witness_OnlyResetEndsHalt0AndStop0 :
    let s : State := { State.reset with run := .halt false, inputs := [drivenPins 7 15 15, quietPins] }
    Finished s ∧ Finished { s with run := .stop false } ∧ NeverReset s := by decide

theorem witness_PswordIsZeroAfterResetAndKeptInStandby :
    (resetLevel (resetLow flagged) = false ∧ flagged.run ≠ .reset ∧ ∃ t, step (resetLow flagged) = .next t) ∧
    (∃ t, exec (.stop 0) flagged = .next t) ∧ (∃ t, exec (.halt 1) flagged = .next t) ∧
    (resetLevel { flagged with run := .halt false } = true ∧ ∃ t, step { flagged with run := .halt false } = .next t) :=
  ⟨⟨by decide, by decide, _, rfl⟩, ⟨_, rfl⟩, ⟨_, rfl⟩, by decide, _, rfl⟩

theorem witness_StepKeepsTheInvariant :
    let s : State := { State.reset with rom := [(0, 0xE805), (1, 0x3AF0)] }
    Inv s ∧ ∃ t, step s = .next t := ⟨by decide, _, rfl⟩

theorem witness_NoRunChangesTheRom :
    ∃ t, Host.Core.run Sys2Proof.core 2 { State.reset with rom := [(0, 0xE805), (1, 0x3AF0)] } = .next t := ⟨_, rfl⟩

end Sys2Proof.Tests
end

section
/-! PROOF. The PSWORD over resets and standby modes (spec/10_state.md R36). -/

namespace Sys2Proof.Proofs

open Sys2Proof.Machine

/-! ## What a reset leaves -/

theorem initialised_initialise (s : State) : Initialised s.initialise :=
  ⟨rfl, rfl, rfl, rfl, rfl, rfl, rfl, rfl, rfl, rfl⟩

theorem initialised_setRun {s : State} (h : Initialised s) (m : RunMode) : Initialised (s.setRun m) := h

theorem initialised_tick {s : State} (h : Initialised s) : Initialised s.tick := h

theorem initialised_enterReset (s : State) : Initialised (enterReset s) := by
  unfold enterReset
  split
  · exact initialised_setRun (initialised_initialise s) .reset
  · exact initialised_setRun (initialised_initialise s.loseData) .reset

theorem initialised_enterStopReset (s : State) : Initialised (enterStopReset s) :=
  initialised_setRun (initialised_initialise s) (.stop false)

theorem psword_of_initialised {t : State} (h : Initialised t) :
    t.bcd = false ∧ t.cmp = false ∧ t.cy = false ∧ t.z = false := by
  obtain ⟨-, hbcd, hcmp, hcy, hz, -⟩ := h
  exact ⟨hbcd, hcmp, hcy, hz⟩

/-- A step with RESET low takes a reset, unless the chip is held in one already (R260, R261). -/
theorem step_of_resetLow {s t : State} (hr : resetLevel s = false) (hrun : s.run ≠ .reset) (h : step s = .next t) :
    t = (enterReset s).tick := by
  rcases step_cases h with ⟨-, rfl⟩ | ⟨hhigh, -⟩ | ⟨hhigh, -⟩ | ⟨hhigh, -⟩
  · rw [resetStep, if_neg hrun]
  all_goals rw [hr] at hhigh; cases hhigh

/-! ## What HALT, STOP 0001B and the standby modes keep -/

/-- A step in which no instruction runs changes at most the run mode (R228 to R233). -/
theorem idleStep_eq_setRun (s : State) : ∃ m, idleStep s = s.setRun m := by
  unfold idleStep
  split
  case h_1 => exact ⟨s.run, rfl⟩
  case h_2 =>
    split
    · exact ⟨.operating, rfl⟩
    · exact ⟨s.run, rfl⟩
  case h_3 =>
    split
    · exact ⟨.wait, rfl⟩
    · exact ⟨s.run, rfl⟩
  case h_4 => exact ⟨.wait, rfl⟩
  case h_5 => exact ⟨.operating, rfl⟩

theorem step_of_resetHigh_of_not_operating {s t : State} (hr : resetLevel s = true) (ho : s.run ≠ .operating)
    (h : step s = .next t) : t = (idleStep s).tick := by
  rcases step_cases h with ⟨hlow, -⟩ | ⟨-, -, ht⟩ | ⟨-, hop, -⟩ | ⟨-, hop, -⟩
  · rw [hr] at hlow; cases hlow
  · exact ht
  · exact absurd hop ho
  · exact absurd hop ho

theorem sameFlags_advancePc_setRun (s : State) (m : RunMode) : SameFlags s (s.advancePc.setRun m) :=
  ⟨rfl, rfl, rfl, rfl⟩

theorem execHalt_sameFlags {x : Nibble} {s t : State} (h : execHalt x s = .next t) : SameFlags s t := by
  obtain ⟨-, rfl⟩ := execHalt_next h
  exact sameFlags_advancePc_setRun s _

theorem execStop_one_sameFlags {s t : State} (h : execStop 1 s = .next t) : SameFlags s t := by
  obtain ⟨-, rfl⟩ := execStop_next h
  exact sameFlags_advancePc_setRun s _

theorem execStop_zero_next {s t : State} (h : execStop 0 s = .next t) : t = enterStopReset s :=
  (execStop_next h).2

theorem step_sameFlags_of_resetHigh_of_not_operating {s t : State} (hr : resetLevel s = true)
    (ho : s.run ≠ .operating) (h : step s = .next t) : SameFlags s t := by
  obtain ⟨m, hm⟩ := idleStep_eq_setRun s
  rw [step_of_resetHigh_of_not_operating hr ho h, hm]
  exact ⟨rfl, rfl, rfl, rfl⟩

/-- Settles O56: a reset and STOP 0000B end in `initialise`, which clears the PSWORD; HALT, STOP 0001B and the steps of the
standby modes change only pc and the run mode. -/
theorem pswordIsZeroAfterResetAndKeptInStandby : Obligations.PswordIsZeroAfterResetAndKeptInStandby := by
  unfold Obligations.PswordIsZeroAfterResetAndKeptInStandby
  refine ⟨⟨rfl, rfl, rfl, rfl⟩, ?reset, ?stop, ?keep, ?standby⟩
  case reset =>
    intro s t hr hrun h
    rw [step_of_resetLow hr hrun h]
    exact psword_of_initialised (initialised_tick (initialised_enterReset s))
  case stop =>
    intro s t h
    rw [execStop_zero_next h]
    exact psword_of_initialised (initialised_enterStopReset s)
  case keep =>
    intro s t i hi h
    simp only [List.mem_cons, List.not_mem_nil, or_false] at hi
    rcases hi with rfl | rfl | rfl
    · exact execHalt_sameFlags h
    · exact execHalt_sameFlags h
    · exact execStop_one_sameFlags h
  case standby =>
    intro s t b hr hrun h
    have ho : s.run ≠ .operating := by rcases hrun with e | e <;> simp [e]
    exact step_sameFlags_of_resetHigh_of_not_operating hr ho h

end Sys2Proof.Proofs
end

section
/-! PROOF. What the decoder accepts re-encodes to the word read, and the words of operation code 00111
(spec/30_encoding.md R101 to R110). -/

namespace Sys2Proof.Proofs

/-! ## The fields of a word make up the word -/

theorem packOp_of_opField {w : Word} {op : Nat} (hop : (opField w).toNat = op) :
    packOp (BitVec.ofNat 5 op) (mField w) (lowField w) = w := by
  rw [← (BitVec.toNat_eq_nat.1 hop).2, packOp_fields]

theorem packAddr_of_opField {w : Word} {op : Nat} (hop : (opField w).toNat = op) :
    packAddr (BitVec.ofNat 5 op) (addrField w) = w := by
  rw [← (BitVec.toNat_eq_nat.1 hop).2, packAddr_fields]

theorem packOp_of_opField_mField {w : Word} {op m : Nat} (hop : (opField w).toNat = op) (hm : (mField w).toNat = m) :
    packOp (BitVec.ofNat 5 op) (BitVec.ofNat 7 m) (lowField w) = w := by
  rw [← (BitVec.toNat_eq_nat.1 hm).2, packOp_of_opField hop]

theorem packOp_of_lowField_zero {w : Word} {op m : Nat} (hop : (opField w).toNat = op) (hm : (mField w).toNat = m)
    (h0 : lowField w = 0) : packOp (BitVec.ofNat 5 op) (BitVec.ofNat 7 m) 0 = w := by
  rw [← h0, packOp_of_opField_mField hop hm]

/-! ## What the decoder accepts -/

/-- Where the decoder tests operand bits (R107, R109, R110), it accepts only if the test holds. -/
theorem guarded_ok {c : Prop} [Decidable c] {i j : Instr} {e : DecodeError}
    (h : (if c then Except.ok j else .error e) = .ok i) : c ∧ i = j := by
  split at h
  case isTrue hc => cases h; exact ⟨hc, rfl⟩
  case isFalse => cases h

theorem decodeStandby_ok {w : Word} {mk : Nibble → Instr} {i : Instr} (h : decodeStandby w mk = .ok i) :
    standbyOk (lowField w) = true ∧ i = mk (lowField w) := guarded_ok h

theorem decodeBranch_ok {w : Word} {mk : BitVec 11 → Instr} {i : Instr} (h : decodeBranch w mk = .ok i) :
    addrOk (addrField w) = true ∧ i = mk (addrField w) := guarded_ok h

theorem wf_and_encode_of_decodeSystem {w : Word} {i : Instr} (hop : (opField w).toNat = 0b00111)
    (h : decodeSystem w = .ok i) : i.wf = true ∧ encode i = w := by
  unfold decodeSystem at h
  split at h
  case h_1 hm =>
    cases h
    exact ⟨rfl, packOp_of_opField_mField hop hm⟩
  case h_4 hm =>
    obtain ⟨hok, rfl⟩ := decodeStandby_ok h
    exact ⟨hok, packOp_of_opField_mField hop hm⟩
  case h_5 hm =>
    obtain ⟨hok, rfl⟩ := decodeStandby_ok h
    exact ⟨hok, packOp_of_opField_mField hop hm⟩
  case h_7 => cases h
  all_goals
    obtain ⟨h0, rfl⟩ := guarded_ok h
    exact ⟨rfl, packOp_of_lowField_zero hop ‹_› h0⟩

/-- The decoder loses no bit: whatever word it accepts is the encoding of the instruction it answers. -/
theorem wf_and_encode_of_decode {w : Word} {i : Instr} (h : decode w = .ok i) : i.wf = true ∧ encode i = w := by
  unfold decode at h
  split at h
  case h_8 hop => exact wf_and_encode_of_decodeSystem hop h
  case h_12 hop =>
    obtain ⟨hok, rfl⟩ := decodeBranch_ok h
    exact ⟨hok, packAddr_of_opField hop⟩
  case h_23 hop =>
    obtain ⟨hok, rfl⟩ := decodeBranch_ok h
    exact ⟨hok, packAddr_of_opField hop⟩
  case h_27 => cases h
  all_goals
    cases h
    exact ⟨rfl, packOp_of_opField ‹_›⟩

/-- An instruction that survives the round trip is read from one word only, its own. -/
theorem decode_eq_ok_iff_eq_encode {w : Word} {i : Instr} (hi : decode (encode i) = .ok i) :
    decode w = .ok i ↔ w = encode i := by
  constructor
  · intro h
    exact (wf_and_encode_of_decode h).2.symm
  · rintro rfl
    exact hi

/-! ## Operation code 00111 -/

theorem decode_encode_rorc (r : Nibble) : decode (encode (.rorc r)) = .ok (.rorc r) := by
  simp [encode, decode, decodeSystem]

theorem encode_rorc (r : Nibble) : encode (.rorc r) = 0x3870 ||| r.zeroExtend 16 := by
  revert r
  decide

theorem standbyOk_iff (x : Nibble) : standbyOk x = true ↔ x = 0 ∨ x = 1 := by
  revert x
  decide

/-- HALT and STOP: the operands 0 and 1 are the two that R110 allows, each with one word. -/
theorem decode_standby_iff {mk : Nibble → Instr} (hwf : ∀ x, (mk x).wf = standbyOk x)
    (h0 : decode (encode (mk 0)) = .ok (mk 0)) (h1 : decode (encode (mk 1)) = .ok (mk 1)) (w : Word) (x : Nibble) :
    decode w = .ok (mk x) ↔ (x = 0 ∧ w = encode (mk 0)) ∨ (x = 1 ∧ w = encode (mk 1)) := by
  constructor
  · intro h
    obtain ⟨hok, rfl⟩ := wf_and_encode_of_decode h
    rw [hwf, standbyOk_iff] at hok
    rcases hok with rfl | rfl
    · exact .inl ⟨rfl, rfl⟩
    · exact .inr ⟨rfl, rfl⟩
  · rintro (⟨rfl, rfl⟩ | ⟨rfl, rfl⟩)
    · exact h0
    · exact h1

/-- Settles O4: an accepted word is the encoding of what it decodes to, and each of the six instructions decodes back from
its own encoding, which is the word of R107. -/
theorem systemGroupWholeWordSelectsInstruction : Obligations.SystemGroupWholeWordSelectsInstruction := by
  unfold Obligations.SystemGroupWholeWordSelectsInstruction
  intro w
  refine ⟨?rorc, ?ret, ?retsk, ?stop, ?halt, ?nop⟩
  case rorc =>
    intro r
    rw [← encode_rorc]
    exact decode_eq_ok_iff_eq_encode (decode_encode_rorc r)
  case ret => exact decode_eq_ok_iff_eq_encode (i := .ret) rfl
  case retsk => exact decode_eq_ok_iff_eq_encode (i := .retsk) rfl
  case stop => exact decode_standby_iff (mk := .stop) (fun _ => rfl) rfl rfl w
  case halt => exact decode_standby_iff (mk := .halt) (fun _ => rfl) rfl rfl w
  case nop => exact decode_eq_ok_iff_eq_encode (i := .nop) rfl

end Sys2Proof.Proofs
end

section
/-! PROOF. The arithmetic of the ALU: binary addition and subtraction, and their decimal correction (spec/40_add_sub.md R132,
R133). -/

namespace Sys2Proof.Proofs

open Sys2Proof.Machine Sys2Proof.Claims

/-! ## Binary: carry and result of the exact sum and difference -/

theorem binAdd_cy_iff (a b : Nibble) (c : Bool) : (binAdd a b c).cy = true ↔ a.toNat + b.toNat + c.toNat > 15 :=
  decide_eq_true_iff

theorem binAdd_res_toNat (a b : Nibble) (c : Bool) :
    (binAdd a b c).res.toNat = (a.toNat + b.toNat + c.toNat) % 16 := BitVec.toNat_ofNat ..

theorem binSub_cy_iff (a b : Nibble) (c : Bool) :
    (binSub a b c).cy = true ↔ (a.toNat : Int) - b.toNat - c.toNat < 0 := decide_eq_true_iff

theorem binSub_res_toNat (a b : Nibble) (c : Bool) :
    ((binSub a b c).res.toNat : Int) = ((a.toNat : Int) - b.toNat - c.toNat) % 16 := by
  rw [binSub, BitVec.toNat_ofInt]
  exact Int.toNat_of_nonneg (Int.emod_nonneg _ (by decide))

/-- Settles O12: the ALU computes the exact sum or difference; CY compares it with the 4-bit range, and narrowing it to a
nibble takes it modulo 16. -/
theorem binaryArithmeticIsExact : Obligations.BinaryArithmeticIsExact := by
  unfold Obligations.BinaryArithmeticIsExact
  intro a b c
  exact ⟨binAdd_cy_iff a b c, binAdd_res_toNat a b c, binSub_cy_iff a b c, binSub_res_toNat a b c⟩

/-! ## Decimal: `{cy, res}` read as a 5-bit number is the sum, or the difference modulo 32 -/

theorem binarySum_lt (a b : Nibble) (c : Bool) : a.toNat + b.toNat + c.toNat < 32 := by
  have := c.toNat_le
  omega

theorem binaryDiff_mem_range (a b : Nibble) (c : Bool) :
    -16 ≤ (a.toNat : Int) - b.toNat - c.toNat ∧ (a.toNat : Int) - b.toNat - c.toNat < 16 := by
  have := c.toNat_le
  omega

theorem binAdd_index (a b : Nibble) (c : Bool) :
    16 * (binAdd a b c).cy.toNat + (binAdd a b c).res.toNat = a.toNat + b.toNat + c.toNat := by
  have hlt := binarySum_lt a b c
  have hcy := binAdd_cy_iff a b c
  rw [binAdd_res_toNat]
  cases h : (binAdd a b c).cy
  case false =>
    have : a.toNat + b.toNat + c.toNat ≤ 15 := by simpa [h] using hcy
    simp only [Bool.toNat_false]; omega
  case true =>
    have := hcy.1 h
    simp only [Bool.toNat_true]; omega

theorem binSub_index (a b : Nibble) (c : Bool) :
    16 * (binSub a b c).cy.toNat + (binSub a b c).res.toNat = (((a.toNat : Int) - b.toNat - c.toNat) % 32).toNat := by
  obtain ⟨hlo, hhi⟩ := binaryDiff_mem_range a b c
  have hcy := binSub_cy_iff a b c
  have hres := binSub_res_toNat a b c
  generalize (a.toNat : Int) - b.toNat - c.toNat = d at *
  cases h : (binSub a b c).cy
  case false =>
    have : 0 ≤ d := by simpa [h] using hcy
    simp only [Bool.toNat_false]; omega
  case true =>
    have := hcy.1 h
    simp only [Bool.toNat_true]; omega

/-! ## Decimal: the rows of the two correction tables -/

theorem addTable_row : ∀ n < 32, addTable.getD n (false, 0) = decimalSum n := by decide

theorem subTable_row : ∀ d : Int, -16 ≤ d → d < 16 → subTable.getD (d % 32).toNat (false, 0) = decimalDiff d := by decide

theorem correct_eq_of_row {table : List (Bool × Nibble)} {o : AluOut} {row : Bool × Nibble}
    (h : table.getD (16 * o.cy.toNat + o.res.toNat) (false, 0) = row) : correct table o = ⟨row.1, row.2⟩ := by
  rw [correct, h]

theorem aluAdd_decimal (a b : Nibble) (c : Bool) :
    aluAdd true a b c =
      ⟨(decimalSum (a.toNat + b.toNat + c.toNat)).1, (decimalSum (a.toNat + b.toNat + c.toNat)).2⟩ := by
  apply correct_eq_of_row
  rw [binAdd_index]
  exact addTable_row _ (binarySum_lt a b c)

theorem aluSub_decimal (a b : Nibble) (c : Bool) :
    aluSub true a b c =
      ⟨(decimalDiff ((a.toNat : Int) - b.toNat - c.toNat)).1, (decimalDiff ((a.toNat : Int) - b.toNat - c.toNat)).2⟩ := by
  apply correct_eq_of_row
  rw [binSub_index]
  obtain ⟨hlo, hhi⟩ := binaryDiff_mem_range a b c
  exact subTable_row _ hlo hhi

/-- Settles O13: the 5-bit index of the decimal correction is the binary sum, or the difference modulo 32, and the row it
selects is the one of table 5-2 in each of the 32 cases. -/
theorem decimalArithmeticFollowsTheTable : Obligations.DecimalArithmeticFollowsTheTable := by
  unfold Obligations.DecimalArithmeticFollowsTheTable
  intro a b c
  exact ⟨aluAdd_decimal a b c, aluSub_decimal a b c⟩

end Sys2Proof.Proofs
end

section
/-! PROOF. Decoder and encoder: the round trips, the rows of the opcode table, and the words that are refused
(spec/30_encoding.md R101 to R112). -/

namespace Sys2Proof.Proofs

open Sys2Proof.Claims Sys2Proof.Laws

/-! ## The round trip -/

theorem decodeStandby_packOp {op : BitVec 5} {mid : BitVec 7} {x : Nibble} (mk : Nibble → Instr)
    (hx : standbyOk x = true) : decodeStandby (packOp op mid x) mk = .ok (mk x) := by
  simp [decodeStandby, hx]

theorem decodeBranch_packAddr {op : BitVec 5} {addr : BitVec 11} (mk : BitVec 11 → Instr) (ha : addrOk addr = true) :
    decodeBranch (packAddr op addr) mk = .ok (mk addr) := by
  simp [decodeBranch, ha]

/-- Settles O1: the decoder finds the operation code and the operands in the fields in which the encoder packed them; BR,
CALL, STOP and HALT pass the test of their fixed bits because they are well formed. -/
theorem decodeReadsBackEveryEncoding : Obligations.DecodeReadsBackEveryEncoding := by
  unfold Obligations.DecodeReadsBackEveryEncoding
  intro i hwf
  cases i with
  | br addr | call addr => simpa [decode, encode] using decodeBranch_packAddr _ hwf
  | stop x | halt x => simpa [decode, encode, decodeSystem] using decodeStandby_packOp _ hwf
  | ret | retsk | nop => rfl
  | rorc r => exact decode_encode_rorc r
  | _ => simp [decode, encode]

/-- Settles O2, which is the loss-free decoder of `wf_and_encode_of_decode`. -/
theorem encodeReadsBackEveryDecoding : Obligations.EncodeReadsBackEveryDecoding := by
  unfold Obligations.EncodeReadsBackEveryDecoding
  intro w i h
  exact wf_and_encode_of_decode h

/-! ## Words that match a row of the opcode table -/

theorem opField_and (v w : Word) : opField (v &&& w) = opField v &&& opField w := BitVec.extractLsb'_and
theorem mField_and (v w : Word) : mField (v &&& w) = mField v &&& mField w := BitVec.extractLsb'_and
theorem lowField_and (v w : Word) : lowField (v &&& w) = lowField v &&& lowField w := BitVec.extractLsb'_and
theorem addrField_and (v w : Word) : addrField (v &&& w) = addrField v &&& addrField w := BitVec.extractLsb'_and

/-- A mask that keeps b15-b11 fixes the operation code. -/
theorem opField_of_and_eq {w mask v : Word} (h : w &&& mask = v) (hmask : opField mask = BitVec.allOnes 5) :
    opField w = opField v := by
  rw [← h, opField_and, hmask, BitVec.and_allOnes]

/-- A mask that keeps b10-b4 fixes the operand `m`. -/
theorem mField_of_and_eq {w mask v : Word} (h : w &&& mask = v) (hmask : mField mask = BitVec.allOnes 7) :
    mField w = mField v := by
  rw [← h, mField_and, hmask, BitVec.and_allOnes]

theorem standbyOk_of_and {x : Nibble} (h : x &&& 0b1110 = 0) : standbyOk x = true := by
  revert x
  decide

theorem addrOk_of_and {addr : BitVec 11} (h : addr &&& 0b11000000000 = 0) : addrOk addr = true := by
  have h2 : addr.extractLsb' 9 2 &&& BitVec.allOnes 2 = 0 := by
    have := congrArg (BitVec.extractLsb' 9 2) h
    rwa [BitVec.extractLsb'_and] at this
  rw [BitVec.and_allOnes] at h2
  simp [addrOk, h2]

/-- The operation codes of R106 that decode whatever the other bits are: all but system, BR and CALL. -/
def plainOps : List (BitVec 5) :=
  [0b00000, 0b00001, 0b00010, 0b00011, 0b00100, 0b00101, 0b00110, 0b01000, 0b01001, 0b01011, 0b10000, 0b10001, 0b10010,
   0b10011, 0b10100, 0b10101, 0b10110, 0b11000, 0b11001, 0b11011, 0b11101, 0b11110, 0b11111]

theorem decode_of_plainOps {w : Word} (h : opField w ∈ plainOps) : ∃ i, decode w = .ok i := by
  simp only [plainOps, List.mem_cons, List.not_mem_nil, or_false] at h
  unfold decode
  rcases h with h | h | h | h | h | h | h | h | h | h | h | h | h | h | h | h | h | h | h | h | h | h | h <;>
    simp [h]

theorem decode_of_branchRow {w v : Word} (h : w &&& 0xFE00 = v) (hop : opField v = 0b01100 ∨ opField v = 0b11100)
    (haddr : addrField v = 0) : ∃ i, decode w = .ok i := by
  have hw := opField_of_and_eq h rfl
  have ha : addrOk (addrField w) = true := by
    apply addrOk_of_and
    rw [← haddr, ← h, addrField_and]
    rfl
  rcases hop with hop | hop <;> rw [hop] at hw <;> simp [decode, decodeBranch, hw, ha]

theorem decode_of_standbyRow {w v : Word} (h : w &&& 0xFFFE = v) (hop : opField v = 0b00111)
    (hm : mField v = 0x2F ∨ mField v = 0x3F) (hlow : lowField v = 0) : ∃ i, decode w = .ok i := by
  have hw := opField_of_and_eq h rfl
  have hwm := mField_of_and_eq h rfl
  have hx : standbyOk (lowField w) = true := by
    apply standbyOk_of_and
    rw [← hlow, ← h, lowField_and]
    rfl
  rcases hm with hm | hm <;> rw [hm] at hwm <;> simp [decode, decodeSystem, decodeStandby, hw, hop, hwm, hx]

theorem decode_of_rorcRow {w : Word} (h : w &&& 0xFFF0 = 0x3870) : ∃ i, decode w = .ok i := by
  have hop : opField w = 0b00111 := opField_of_and_eq h rfl
  have hm : mField w = 0x07 := mField_of_and_eq h rfl
  simp [decode, decodeSystem, hop, hm]

theorem eq_of_and_allBits {w v : Word} (h : w &&& 0xFFFF = v) : w = v := by
  rw [← h, show (0xFFFF : Word) = BitVec.allOnes 16 from rfl, BitVec.and_allOnes]

/-- The rows of the table by their mask: 23 rows of a plain operation code, and the rows with more fixed bits. -/
theorem opcodeRows_cases {row : Word × Word} (h : row ∈ opcodeRows) :
    (row.1 = 0xF800 ∧ opField row.2 ∈ plainOps) ∨ row = (0xFFF0, 0x3870) ∨
    (row.1 = 0xFE00 ∧ (opField row.2 = 0b01100 ∨ opField row.2 = 0b11100) ∧ addrField row.2 = 0) ∨
    (row.1 = 0xFFFE ∧ opField row.2 = 0b00111 ∧ (mField row.2 = 0x2F ∨ mField row.2 = 0x3F) ∧ lowField row.2 = 0) ∨
    row ∈ [(0xFFFF, 0x38E0), (0xFFFF, 0x39E0), (0xFFFF, 0x3CF0)] := by
  revert row
  simp [opcodeRows, plainOps, opField, mField, lowField, addrField]

theorem decode_of_opcodeRow {w : Word} {row : Word × Word} (hrow : row ∈ opcodeRows) (h : w &&& row.1 = row.2) :
    ∃ i, decode w = .ok i := by
  rcases opcodeRows_cases hrow with ⟨hmask, hop⟩ | rfl | ⟨hmask, hop, haddr⟩ | ⟨hmask, hop, hm, hlow⟩ | hword
  · rw [hmask] at h
    exact decode_of_plainOps (opField_of_and_eq h rfl ▸ hop)
  · exact decode_of_rorcRow h
  · exact decode_of_branchRow (by rwa [hmask] at h) hop haddr
  · exact decode_of_standbyRow (by rwa [hmask] at h) hop hm hlow
  · simp only [List.mem_cons, List.not_mem_nil, or_false] at hword
    rcases hword with rfl | rfl | rfl <;> exact ⟨_, by rw [eq_of_and_allBits h]; rfl⟩

/-- The word of a well-formed instruction matches the row of its own (R106, R107). -/
theorem encodedRow_statement (i : Instr) : EncodedRow.Statement i := by
  cases i with
  | br addr => exact EncodedRow.br addr
  | call addr => exact EncodedRow.call addr
  | stop x => exact EncodedRow.stop x
  | halt x => exact EncodedRow.halt x
  | rorc r => exact EncodedRow.rorc r
  | ret | retsk | nop => exact fun _ => rfl
  | _ => exact fun _ => EncodedRow.packOp_and_opMask _ _ _

theorem encodedRow_mem_opcodeRows (i : Instr) : EncodedRow.row i ∈ opcodeRows := by
  cases i <;> simp [EncodedRow.row, opcodeRows]

/-- Settles O3: an accepted word is the encoding of a well-formed instruction and matches that instruction's row; and a word
that matches a row has the fields the decoder asks for. -/
theorem decoderAcceptsExactlyTheOpcodeRows : Obligations.DecoderAcceptsExactlyTheOpcodeRows := by
  unfold Obligations.DecoderAcceptsExactlyTheOpcodeRows
  intro w
  constructor
  · rintro ⟨i, hi⟩
    obtain ⟨hwf, rfl⟩ := wf_and_encode_of_decode hi
    exact ⟨EncodedRow.row i, encodedRow_mem_opcodeRows i, encodedRow_statement i hwf⟩
  · rintro ⟨row, hrow, h⟩
    exact decode_of_opcodeRow hrow h

/-! ## Words that are refused -/

/-- b15-b4 of a word are its operation code and its operand `m`. -/
theorem extractLsb'_4_12 (w : Word) : w.extractLsb' 4 12 = opField w ++ mField w :=
  (BitVec.extractLsb'_append_extractLsb'_eq_extractLsb' (start₁ := 4) (len₁ := 7) rfl).symm

theorem fields_of_extractLsb' {w : Word} {op : BitVec 5} {m : BitVec 7} (h : w.extractLsb' 4 12 = op ++ m) :
    opField w = op ∧ mField w = m := by
  rw [extractLsb'_4_12] at h
  constructor
  · rw [← BitVec.extractLsb'_append_eq_left (a := opField w), h, BitVec.extractLsb'_append_eq_left]
  · rw [← BitVec.extractLsb'_append_eq_right (b := mField w), h, BitVec.extractLsb'_append_eq_right]

theorem decode_of_unusedOp {w : Word} (h : opField w ∈ [0b01010, 0b01101, 0b01110, 0b01111, 0b10111, 0b11010]) :
    decode w = .error (.unusedOpcode w) := by
  simp only [List.mem_cons, List.not_mem_nil, or_false] at h
  rcases h with h | h | h | h | h | h <;> simp [decode, h]

theorem decode_of_branchHighBits {w : Word} (hop : opField w = 0b01100 ∨ opField w = 0b11100)
    (h : addrOk (addrField w) = false) : decode w = .error (.branchHighBits w) := by
  rcases hop with hop | hop <;> simp [decode, decodeBranch, hop, h]

theorem decode_of_standbyOperand {w : Word} (hop : opField w = 0b00111) (hm : mField w = 0x2F ∨ mField w = 0x3F)
    (h : standbyOk (lowField w) = false) : decode w = .error (.standbyOperand w) := by
  rcases hm with hm | hm <;> simp [decode, decodeSystem, decodeStandby, hop, hm, h]

theorem decode_of_system {w : Word} (hop : opField w = 0b00111) : decode w = decodeSystem w := by
  simp [decode, hop]

theorem decodeSystem_of_undefined {w : Word} (hop : (opField w).toNat = 0b00111)
    (hm : (mField w).toNat ≠ 0x07 ∧ (mField w).toNat ≠ 0x2F ∧ (mField w).toNat ≠ 0x3F)
    (hw : w ∉ [0x38E0, 0x39E0, 0x3CF0]) : decodeSystem w = .error (.undefinedSystemWord w) := by
  obtain ⟨h7, h2F, h3F⟩ := hm
  simp only [List.mem_cons, List.not_mem_nil, or_false, not_or] at hw
  obtain ⟨hret, hretsk, hnop⟩ := hw
  unfold decodeSystem
  split
  case h_1 h => exact absurd h h7
  case h_4 h => exact absurd h h2F
  case h_5 h => exact absurd h h3F
  case h_2 h => exact if_neg fun h0 => hret (packOp_of_lowField_zero hop h h0).symm
  case h_3 h => exact if_neg fun h0 => hretsk (packOp_of_lowField_zero hop h h0).symm
  case h_6 h => exact if_neg fun h0 => hnop (packOp_of_lowField_zero hop h h0).symm
  case h_7 => rfl

theorem extractLsb'_of_mField {w : Word} {m : Nat} (hop : opField w = 0b00111) (hm : (mField w).toNat = m) :
    w.extractLsb' 4 12 = (0b00111 : BitVec 5) ++ BitVec.ofNat 7 m := by
  rw [extractLsb'_4_12, hop, ← (BitVec.toNat_eq_nat.1 hm).2]

/-- Settles O5: the operation code leads the decoder to the one test that the reserved word fails. -/
theorem reservedWordsAreRefusedByName : Obligations.ReservedWordsAreRefusedByName := by
  unfold Obligations.ReservedWordsAreRefusedByName
  intro w
  refine ⟨decode_of_unusedOp, ?branch, ?standby, ?undefined⟩
  case branch =>
    intro hop hbits
    refine decode_of_branchHighBits (by simpa [opField] using hop) ?_
    have : (addrField w).extractLsb' 9 2 = w.extractLsb' 9 2 := by
      simp [addrField, BitVec.extractLsb'_extractLsb'_of_le]
    simpa [addrOk, this] using hbits
  case standby =>
    intro hop hbits
    simp only [List.mem_cons, List.not_mem_nil, or_false] at hop
    have hlow : standbyOk (lowField w) = false := by
      have : (lowField w).extractLsb' 1 3 = w.extractLsb' 1 3 := by
        simp [lowField, BitVec.extractLsb'_extractLsb'_of_le]
      simpa [standbyOk, this] using hbits
    rcases hop with hop | hop
    · obtain ⟨hop, hm⟩ := fields_of_extractLsb' (op := 0b00111) (m := 0x2F) hop
      exact decode_of_standbyOperand hop (.inl hm) hlow
    · obtain ⟨hop, hm⟩ := fields_of_extractLsb' (op := 0b00111) (m := 0x3F) hop
      exact decode_of_standbyOperand hop (.inr hm) hlow
  case undefined =>
    intro hop hm hw
    replace hop : opField w = 0b00111 := hop
    simp only [List.mem_cons, List.not_mem_nil, or_false, not_or] at hm
    obtain ⟨h387, h3AF, h3BF⟩ := hm
    rw [decode_of_system hop]
    exact decodeSystem_of_undefined (by rw [hop]; rfl)
      ⟨fun h => h387 (extractLsb'_of_mField hop h), fun h => h3AF (extractLsb'_of_mField hop h),
        fun h => h3BF (extractLsb'_of_mField hop h)⟩ hw

/-- Settles O6: the decoder evaluates on each of the twelve words. -/
theorem manualWordsDecodeAsTheManualSays : Obligations.ManualWordsDecodeAsTheManualSays := by
  unfold Obligations.ManualWordsDecodeAsTheManualSays
  decide

end Sys2Proof.Proofs
end

section
/-! PROOF. Data memory and the port pins: what reads and writes do at every address (spec/20_memory.md R63 to R72). -/

namespace Sys2Proof.Proofs

open Sys2Proof.Machine Sys2Proof.Claims

/-! ## The rows of the map -/

theorem region_eq_portB_iff (a : DAddr) : region a = .portB ↔ a = 0x71 := by revert a; decide
theorem region_eq_portC_iff (a : DAddr) : region a = .portC ↔ a = 0x72 := by revert a; decide
theorem region_eq_portD_iff (a : DAddr) : region a = .portD ↔ a = 0x73 := by revert a; decide
theorem region_eq_bcdFlag_iff (a : DAddr) : region a = .bcdFlag ↔ a = 0x7E := by revert a; decide
theorem region_eq_psw_iff (a : DAddr) : region a = .psw ↔ a = 0x7F := by revert a; decide

theorem region_eq_fixedZero_of_range {a : DAddr} (hlo : 0x74 ≤ a.toNat) (hhi : a.toNat ≤ 0x7D) :
    region a = .fixedZero := by
  revert a
  decide

theorem eq_index_of_region_ram {a : DAddr} {i : Fin 16} (h : region a = .ram i) :
    ∃ ha : a.toNat < 16, i = ⟨a.toNat, ha⟩ := by
  have ha : a.toNat < 16 := by
    rw [(eq_regAddr_of_region_ram h).1, regAddr_toNat]
    exact i.isLt
  rw [region_of_lt ha] at h
  exact ⟨ha, (Region.ram.inj h).symm⟩

/-! ## Nibbles that have been written -/

theorem lt_of_unwritten {s : State} {a : DAddr} (h : unwritten s a = true) : a.toNat < 16 := by
  unfold unwritten at h
  split at h
  · assumption
  · cases h

theorem ramReadable_eq_false_iff {s : State} {a : DAddr} (h : a.toNat < 16) :
    ramReadable ⟨a.toNat, h⟩ s = false ↔ s.params.undefinedRead = .fault ∧ unwritten s a = true := by
  have hfault : ¬ s.params.undefinedRead = .anyValue ↔ s.params.undefinedRead = .fault := by
    cases s.params.undefinedRead <;> simp
  simp [ramReadable, unwritten, h, hfault]

/-- An address whose read raises `UndefinedRead`, whatever its row. -/
theorem dmRead_of_unwritten {s : State} {a : DAddr} (hp : s.params.undefinedRead = .fault) (h : unwritten s a = true) :
    dmRead a s = .error (.undefinedRead a) :=
  dmRead_of_not_readable (region_of_lt (lt_of_unwritten h)) ((ramReadable_eq_false_iff _).2 ⟨hp, h⟩)

/-- A read of an accessible address answers a nibble, unless `UNDEFINED_READ` is `fault` and nothing has written it. -/
theorem dmRead_ok_of_accessible {s : State} {a : DAddr} (ha : accessible a s = true)
    (h : ¬ (s.params.undefinedRead = .fault ∧ unwritten s a = true)) : ∃ v, dmRead a s = .ok v := by
  refine dmRead_of_accessible ha fun i hi => ?_
  by_contra hr
  obtain ⟨hlt, rfl⟩ := eq_index_of_region_ram hi
  exact h ((ramReadable_eq_false_iff hlt).1 (by simpa using hr))

theorem dmRead_ram {s : State} {a : DAddr} (h : a.toNat < 16)
    (hr : s.params.undefinedRead = .anyValue ∨ unwritten s a = false) : dmRead a s = .ok (s.ram[a.toNat]'h) := by
  have hread : ramReadable ⟨a.toNat, h⟩ s = true := by
    by_contra hn
    obtain ⟨hp, hu⟩ := (ramReadable_eq_false_iff h).1 (by simpa using hn)
    rcases hr with hr | hr
    · rw [hp] at hr; cases hr
    · rw [hu] at hr; cases hr
  simp [dmRead, region_of_lt h, hread]

/-- Settles O7: `dmRead` by the row of the map in which the address lies. -/
theorem dataMemoryReadFollowsTheMap : Obligations.DataMemoryReadFollowsTheMap := by
  unfold Obligations.DataMemoryReadFollowsTheMap
  intro a s
  refine ⟨fun h hr => dmRead_ram h hr, dmRead_of_unwritten, ?unmapped, ?ignored, ?portB, ?portC, ?portD, ?fixed, ?bcd, ?psw⟩
  case unmapped =>
    intro hlo hhi hp
    exact dmRead_of_not_accessible ((not_accessible_iff a s).2 ⟨hlo, hhi, hp⟩)
  case ignored =>
    intro hlo hhi hp
    simp [dmRead, (region_unmapped_iff a).2 ⟨hlo, hhi⟩, hp]
  case portB =>
    rintro rfl
    exact ⟨readPortB s, rfl, by simp [readPortB]⟩
  case portC =>
    rintro rfl
    exact ⟨readPortC s, rfl, by simp [readPortC]⟩
  case portD =>
    rintro rfl
    exact ⟨readPortD s, rfl, by simp [readPortD]⟩
  case fixed =>
    intro hlo hhi
    simp [dmRead, region_eq_fixedZero_of_range hlo hhi]
  case bcd =>
    rintro rfl
    show Except.ok (bcdNibble s) = _
    cases h : s.bcd <;> simp [bcdNibble, h, nibbleOf]
  case psw =>
    rintro rfl
    exact ⟨pswNibble s, rfl, by simp [pswNibble]⟩

/-! ## Writes -/

/-- `StoreEffect` is the effect of `dmWrite`, row by row of the map. -/
theorem storeEffect_of_dmWrite {m : DAddr} {v : Nibble} {s t : State} (h : dmWrite m v s = .ok t) :
    StoreEffect m v s t := by
  refine ⟨fun hm => ?ram, fun hlo hhi => ?unmapped, ?portB, ?portC, ?portD, fun hlo hhi => ?fixed, ?bcd, ?psw⟩
  case ram =>
    rw [dmWrite, region_of_lt hm] at h
    cases h
    rfl
  case unmapped =>
    rw [dmWrite, (region_unmapped_iff m).2 ⟨hlo, hhi⟩] at h
    cases hp : s.params.unmappedDm with
    | fault => simp [hp] at h
    | readZeroWriteIgnored => simp only [hp] at h; cases h; rfl
  case fixed =>
    rw [dmWrite, region_eq_fixedZero_of_range hlo hhi] at h
    cases h
    rfl
  all_goals
    rintro rfl
    cases h
    rfl

theorem store_of_accessible {m : DAddr} {s : State} (v : Nibble) (h : accessible m s = true) :
    ∃ t, StoreEffect m v s t ∧ dmWrite m v s = .ok t := by
  obtain ⟨t, ht⟩ := dmWrite_of_accessible v h
  exact ⟨t, storeEffect_of_dmWrite ht, ht⟩

/-- Settles O8: a write faults exactly where the address is not accessible, and its effect is `StoreEffect`. -/
theorem dataMemoryWriteFollowsTheMap : Obligations.DataMemoryWriteFollowsTheMap := by
  unfold Obligations.DataMemoryWriteFollowsTheMap
  intro a v s
  refine ⟨fun h => dmWrite_of_not_accessible v ((not_accessible_iff a s).2 h), fun h => ?_⟩
  have ha : accessible a s = true := by
    rw [accessible_iff, Ne, region_unmapped_iff]
    rcases h with h | h | h
    · exact .inl (by omega)
    · exact .inl (by omega)
    · exact .inr h
  obtain ⟨t, heffect, ht⟩ := store_of_accessible v ha
  exact ⟨t, ht, heffect⟩

/-! ## Reads after an update -/

theorem dmRead_advancePc (a : DAddr) (s : State) : dmRead a s.advancePc = dmRead a s := rfl
theorem dmRead_setSkip (a : DAddr) (s : State) (b : Bool) : dmRead a (s.setSkip b) = dmRead a s := rfl

/-- The flags are seen by reads of 7EH and 7FH only (R71). -/
theorem dmRead_setFlags {a : DAddr} {s : State} {b c d e : Bool} (hbcd : a = 0x7E → b = s.bcd)
    (hpsw : a = 0x7F → c = s.cmp ∧ d = s.cy ∧ e = s.z) : dmRead a (s.setFlags b c d e) = dmRead a s :=
  dmRead_congr a (fun _ _ => ⟨rfl, rfl⟩) (fun _ => ⟨rfl, rfl⟩) (fun _ => ⟨rfl, rfl⟩) (fun _ => ⟨rfl, rfl⟩)
    (fun h => hbcd ((region_eq_bcdFlag_iff a).1 h)) (fun h => hpsw ((region_eq_psw_iff a).1 h)) rfl rfl rfl

/-- A RAM nibble is seen by reads of its own address only (R64). -/
theorem dmRead_setRam {a : DAddr} {s : State} {i : Fin 16} (v : Nibble) (h : region a ≠ .ram i) :
    dmRead a (s.setRam i v) = dmRead a s := by
  refine dmRead_congr a (fun j hj => ?_) (fun _ => ⟨rfl, rfl⟩) (fun _ => ⟨rfl, rfl⟩) (fun _ => ⟨rfl, rfl⟩)
    (fun _ => rfl) (fun _ => ⟨rfl, rfl, rfl⟩) rfl rfl rfl
  have hij : i.val ≠ j.val := fun e => h (by rw [hj, Fin.ext e])
  exact ⟨Vector.getElem_set_ne i.isLt j.isLt hij, Vector.getElem_set_ne i.isLt j.isLt hij⟩

theorem dmRead_writeReg {a : DAddr} {r : Nibble} (v : Nibble) (s : State) (h : a ≠ regAddr r) :
    dmRead a (writeReg r v s) = dmRead a s := by
  refine dmRead_setRam v fun hr => h ?_
  obtain ⟨ha, hi⟩ := eq_regAddr_of_region_ram hr
  rw [ha, regAddr_inj, ← regIndex_inj, hi]

/-- A port register is seen by reads of its own address only (R66). -/
theorem dmRead_drivePortB {a : DAddr} {s : State} (v : BitVec 3) (h : a ≠ 0x71) :
    dmRead a (s.drivePortB v) = dmRead a s :=
  dmRead_congr a (fun _ _ => ⟨rfl, rfl⟩) (fun hr => absurd ((region_eq_portB_iff a).1 hr) h) (fun _ => ⟨rfl, rfl⟩)
    (fun _ => ⟨rfl, rfl⟩) (fun _ => rfl) (fun _ => ⟨rfl, rfl, rfl⟩) rfl rfl rfl

theorem dmRead_drivePortC {a : DAddr} {s : State} (v : Nibble) (h : a ≠ 0x72) :
    dmRead a (s.drivePortC v) = dmRead a s :=
  dmRead_congr a (fun _ _ => ⟨rfl, rfl⟩) (fun _ => ⟨rfl, rfl⟩) (fun hr => absurd ((region_eq_portC_iff a).1 hr) h)
    (fun _ => ⟨rfl, rfl⟩) (fun _ => rfl) (fun _ => ⟨rfl, rfl, rfl⟩) rfl rfl rfl

theorem dmRead_drivePortD {a : DAddr} {s : State} (v : Nibble) (h : a ≠ 0x73) :
    dmRead a (s.drivePortD v) = dmRead a s :=
  dmRead_congr a (fun _ _ => ⟨rfl, rfl⟩) (fun _ => ⟨rfl, rfl⟩) (fun _ => ⟨rfl, rfl⟩)
    (fun hr => absurd ((region_eq_portD_iff a).1 hr) h) (fun _ => rfl) (fun _ => ⟨rfl, rfl, rfl⟩) rfl rfl rfl

theorem dmRead_of_dmWrite_ne {a b : DAddr} {v : Nibble} {s t : State} (h : dmWrite a v s = .ok t) (hb : b ≠ a) :
    dmRead b t = dmRead b s := by
  rcases dmWrite_cases h with ⟨i, hr, rfl⟩ | ⟨-, -, rfl⟩ | ⟨hr, rfl⟩ | ⟨hr, rfl⟩ | ⟨hr, rfl⟩ | ⟨-, rfl⟩ |
    ⟨hr, rfl⟩ | ⟨hr, rfl⟩
  · refine dmRead_setRam v fun hbr => hb ?_
    rw [(eq_regAddr_of_region_ram hbr).1, (eq_regAddr_of_region_ram hr).1]
  · rfl
  · exact dmRead_drivePortB _ ((region_eq_portB_iff a).1 hr ▸ hb)
  · exact dmRead_drivePortC _ ((region_eq_portC_iff a).1 hr ▸ hb)
  · exact dmRead_drivePortD _ ((region_eq_portD_iff a).1 hr ▸ hb)
  · rfl
  · exact dmRead_setFlags (fun e => absurd (e.trans ((region_eq_bcdFlag_iff a).1 hr).symm) hb) fun _ => ⟨rfl, rfl, rfl⟩
  · exact dmRead_setFlags (fun _ => rfl) fun e => absurd (e.trans ((region_eq_psw_iff a).1 hr).symm) hb

theorem dmRead_of_dmWrite_same {a : DAddr} {v : Nibble} {s t : State} (h : dmWrite a v s = .ok t) (ha : a.toNat < 16) :
    dmRead a t = .ok v := by
  rw [dmWrite, region_of_lt ha] at h
  cases h
  simp [dmRead, region_of_lt ha, ramReadable]

/-- Settles O9: a RAM nibble reads back what was written, and each row of the map is seen at its own address only. -/
theorem writeIsSeenAtItsAddressOnly : Obligations.WriteIsSeenAtItsAddressOnly := by
  unfold Obligations.WriteIsSeenAtItsAddressOnly
  intro a v s t h
  exact ⟨dmRead_of_dmWrite_same h, fun b hb => dmRead_of_dmWrite_ne h hb⟩

/-! ## Pins -/

theorem openDrain_released {mode : PortMode} {bit : Bool} (pullUp : Bool) (h : mode = .input ∨ bit = true) :
    openDrain mode bit pullUp = if pullUp then .pulledUp else .released := by
  rcases h with rfl | rfl <;> simp [openDrain]

/-- A pin of port 0B as its drive by the chip, in terms of the mode, the latch bit and the mask option (R68). -/
theorem openDrain_level {s : State} {pin : Pin} {bit pullUp : Bool}
    (h : chipDrive s pin = openDrain s.modeB bit pullUp) :
    (s.modeB = .output → bit = false → pinLevel s pin = false) ∧
    (s.modeB = .input ∨ bit = true →
      (∀ l, extDrive s.pins pin = .driven l ∨ extDrive s.pins pin = .forced l → pinLevel s pin = l) ∧
      (extDrive s.pins pin = .undriven → pullUp = true → pinLevel s pin = true) ∧
      (extDrive s.pins pin = .undriven → pullUp = false → pinLevel s pin = Config.floatingLevel s.time pin)) := by
  constructor
  · rintro hm rfl
    simp [pinLevel, h, hm, openDrain, padLevel]
  · intro hreleased
    rw [openDrain_released pullUp hreleased] at h
    refine ⟨fun l hl => ?_, fun hu hp => ?_, fun hu hp => ?_⟩
    · cases pullUp <;> rcases hl with hl | hl <;> simp [pinLevel, h, hl, padLevel]
    · simp [pinLevel, h, hu, hp, padLevel]
    · simp [pinLevel, h, hu, hp, padLevel]

/-- Settles O10: the three pins of port 0B are open drains, each with its own latch bit and mask option. -/
theorem openDrainPinLevels : Obligations.OpenDrainPinLevels := by
  unfold Obligations.OpenDrainPinLevels
  intro s pin bit pullUp h
  apply openDrain_level
  simp only [List.mem_cons, Prod.mk.injEq, List.not_mem_nil, or_false] at h
  rcases h with ⟨rfl, rfl, rfl⟩ | ⟨rfl, rfl, rfl⟩ | ⟨rfl, rfl, rfl⟩ <;> rfl

/-- A pin of port 0C or 0D as its drive by the chip, in terms of the mode and the latch bit (R69). -/
theorem pushPull_level {s : State} {pin : Pin} {mode : PortMode} {bit : Bool} (h : chipDrive s pin = pushPull mode bit) :
    (mode = .input → ∀ l, extDrive s.pins pin = .driven l ∨ extDrive s.pins pin = .forced l → pinLevel s pin = l) ∧
    (mode = .input → extDrive s.pins pin = .undriven → pinLevel s pin = Config.floatingLevel s.time pin) ∧
    (mode = .output → ∀ l, extDrive s.pins pin = .forced l → pinLevel s pin = l) ∧
    (mode = .output → (∀ l, extDrive s.pins pin ≠ .forced l) → pinLevel s pin = bit) := by
  refine ⟨?_, ?_, ?_, ?_⟩
  · rintro rfl l (hl | hl) <;> simp [pinLevel, h, hl, pushPull, padLevel]
  · rintro rfl hu
    simp [pinLevel, h, hu, pushPull, padLevel]
  · rintro rfl l hl
    simp [pinLevel, h, hl, pushPull, padLevel]
  · rintro rfl hl
    cases he : extDrive s.pins pin with
    | undriven | driven l => simp [pinLevel, h, he, pushPull, padLevel]
    | forced l => exact absurd he (hl l)

/-- Settles O11: the eight pins of ports 0C and 0D are push-pull outputs, each with its own latch bit. -/
theorem pushPullPinLevels : Obligations.PushPullPinLevels := by
  unfold Obligations.PushPullPinLevels
  intro s pin mode bit h
  apply pushPull_level
  simp only [List.mem_cons, Prod.mk.injEq, List.not_mem_nil, or_false] at h
  rcases h with ⟨rfl, rfl, rfl⟩ | ⟨rfl, rfl, rfl⟩ | ⟨rfl, rfl, rfl⟩ | ⟨rfl, rfl, rfl⟩ | ⟨rfl, rfl, rfl⟩ |
    ⟨rfl, rfl, rfl⟩ | ⟨rfl, rfl, rfl⟩ | ⟨rfl, rfl, rfl⟩ <;> rfl

end Sys2Proof.Proofs
end

section
/-! PROOF. Frames: what a completing instruction leaves unchanged, and which instruction may change which part of the state
(spec/10_state.md R27 to R38, spec/20_memory.md R64 to R71, spec/60_exceptions.md R227). -/

namespace Sys2Proof.Proofs

open Sys2Proof.Machine Sys2Proof.Claims

/-! ## The frame of a store to data memory -/

/-- What a store to `m` leaves unchanged, by the rows of the map (R63 to R71). -/
structure StoreFrame (m : DAddr) (s t : State) : Prop where
  pc : t.pc = s.pc
  control : SameControl s t
  regs : ∀ q : Nibble, regAddr q ≠ m → regOf q t = regOf q s ∧ writtenReg q t = writtenReg q s
  bcd : m ≠ 0x7E → t.bcd = s.bcd
  psw : m ≠ 0x7F → t.cmp = s.cmp ∧ t.cy = s.cy ∧ t.z = s.z
  portB : (t.latchB = s.latchB ∧ t.modeB = s.modeB) ∨ (m = 0x71 ∧ t.modeB = .output)
  portC : (t.latchC = s.latchC ∧ t.modeC = s.modeC) ∨ (m = 0x72 ∧ t.modeC = .output)
  portD : (t.latchD = s.latchD ∧ t.modeD = s.modeD) ∨ (m = 0x73 ∧ t.modeD = .output)
  reads : ∀ a : DAddr, a ≠ m → dmRead a t = dmRead a s

theorem regOf_setRam_ne {i : Fin 16} {q : Nibble} (s : State) (v : Nibble) (h : i ≠ regIndex q) :
    regOf q (s.setRam i v) = regOf q s ∧ writtenReg q (s.setRam i v) = writtenReg q s := by
  have hne : i.val ≠ q.toNat := fun e => h (Fin.ext e)
  exact ⟨Vector.getElem_set_ne i.isLt q.isLt hne, Vector.getElem_set_ne i.isLt q.isLt hne⟩

theorem storeFrame_refl (m : DAddr) (s : State) : StoreFrame m s s :=
  ⟨rfl, ⟨rfl, rfl, rfl, rfl, rfl, rfl, rfl, rfl, rfl⟩, fun _ _ => ⟨rfl, rfl⟩, fun _ => rfl, fun _ => ⟨rfl, rfl, rfl⟩,
    .inl ⟨rfl, rfl⟩, .inl ⟨rfl, rfl⟩, .inl ⟨rfl, rfl⟩, fun _ _ => rfl⟩

theorem storeFrame_of_dmWrite {m : DAddr} {v : Nibble} {s t : State} (h : dmWrite m v s = .ok t) :
    StoreFrame m s t := by
  have hreads : ∀ a : DAddr, a ≠ m → dmRead a t = dmRead a s := fun a => dmRead_of_dmWrite_ne h
  obtain ⟨hpc, hasr, hdepth, hrun, hskip, hfixed⟩ := dmWrite_control h
  have hcontrol : SameControl s t := ⟨hasr, hdepth, hrun, hskip, hfixed⟩
  rcases dmWrite_cases h with ⟨i, hr, rfl⟩ | ⟨-, -, rfl⟩ | ⟨hr, rfl⟩ | ⟨hr, rfl⟩ | ⟨hr, rfl⟩ | ⟨-, rfl⟩ |
    ⟨hr, rfl⟩ | ⟨hr, rfl⟩
  · refine ⟨hpc, hcontrol, fun q hq => regOf_setRam_ne s v fun e => hq ?_, fun _ => rfl, fun _ => ⟨rfl, rfl, rfl⟩,
      .inl ⟨rfl, rfl⟩, .inl ⟨rfl, rfl⟩, .inl ⟨rfl, rfl⟩, hreads⟩
    rw [(eq_regAddr_of_region_ram hr).1, e]
    rfl
  · exact storeFrame_refl m _
  · exact ⟨hpc, hcontrol, fun _ _ => ⟨rfl, rfl⟩, fun _ => rfl, fun _ => ⟨rfl, rfl, rfl⟩,
      .inr ⟨(region_eq_portB_iff m).1 hr, rfl⟩, .inl ⟨rfl, rfl⟩, .inl ⟨rfl, rfl⟩, hreads⟩
  · exact ⟨hpc, hcontrol, fun _ _ => ⟨rfl, rfl⟩, fun _ => rfl, fun _ => ⟨rfl, rfl, rfl⟩, .inl ⟨rfl, rfl⟩,
      .inr ⟨(region_eq_portC_iff m).1 hr, rfl⟩, .inl ⟨rfl, rfl⟩, hreads⟩
  · exact ⟨hpc, hcontrol, fun _ _ => ⟨rfl, rfl⟩, fun _ => rfl, fun _ => ⟨rfl, rfl, rfl⟩, .inl ⟨rfl, rfl⟩,
      .inl ⟨rfl, rfl⟩, .inr ⟨(region_eq_portD_iff m).1 hr, rfl⟩, hreads⟩
  · exact storeFrame_refl m _
  · exact ⟨hpc, hcontrol, fun _ _ => ⟨rfl, rfl⟩, fun hm => absurd ((region_eq_bcdFlag_iff m).1 hr) hm,
      fun _ => ⟨rfl, rfl, rfl⟩, .inl ⟨rfl, rfl⟩, .inl ⟨rfl, rfl⟩, .inl ⟨rfl, rfl⟩, hreads⟩
  · exact ⟨hpc, hcontrol, fun _ _ => ⟨rfl, rfl⟩, fun _ => rfl, fun hm => absurd ((region_eq_psw_iff m).1 hr) hm,
      .inl ⟨rfl, rfl⟩, .inl ⟨rfl, rfl⟩, .inl ⟨rfl, rfl⟩, hreads⟩

/-! ## Inversion of the storing and the register forms -/

theorem destReg_of_storeAddr {i : Instr} {m : DAddr} (h : storeAddr i = some m) : destReg i = none := by
  cases i <;> simp_all [storeAddr, destReg]

/-- What a storing form does when it completes: it sets CY and Z, which only arithmetic changes, and then stores to `m`,
unless it is arithmetic with CMP = 1 (R33, R134). -/
theorem exec_storing_cases {i : Instr} {m : DAddr} {s t : State} (hi : storeAddr i = some m) (h : exec i s = .next t) :
    ∃ cy z u, (isArith i = false → cy = s.cy ∧ z = s.z) ∧ t = u.advancePc ∧
      ((isArith i = true ∧ s.cmp = true ∧ u = s.setFlags s.bcd s.cmp cy z) ∨
        ((isArith i = true → s.cmp = false) ∧ ∃ v, dmWrite m v (s.setFlags s.bcd s.cmp cy z) = .ok u)) := by
  have hd := destReg_of_storeAddr hi
  rcases exec_cases h with ⟨r, v, cy, z, hr, -⟩ | ⟨cy, z, ha, hc, ht⟩ | ⟨m', v, u, cy, z, hm, hu, ht, hcz, hc⟩ |
    ⟨_, _, _, e | e, -⟩ | ⟨_, _, _, e | e | e | e, -⟩ | ⟨_, e, -⟩ | ⟨_, e, -⟩ | ⟨e, -⟩ | ⟨e, -⟩ | ⟨e, -⟩ |
    ⟨_, _, e, -⟩ | ⟨e, -⟩ | ⟨e, -⟩
  · rw [hd] at hr
    cases hr
  · exact ⟨cy, z, _, by simp [ha], ht, .inl ⟨ha, hc, rfl⟩⟩
  · rw [hi] at hm
    cases hm
    exact ⟨cy, z, u, hcz, ht, .inr ⟨hc, v, hu⟩⟩
  all_goals
    rw [e] at hi
    cases hi

/-- What a register form does when it completes: it sets CY and Z, which only arithmetic and RORC change, and then writes
the register, unless it is arithmetic with CMP = 1. -/
theorem exec_register_cases {i : Instr} {r : Nibble} {s t : State} (hi : destReg i = some r) (h : exec i s = .next t) :
    ∃ cy z u, (isArith i = false → z = s.z) ∧ (isArith i = false → i ≠ .rorc r → cy = s.cy) ∧ t = u.advancePc ∧
      ((isArith i = true ∧ s.cmp = true ∧ u = s.setFlags s.bcd s.cmp cy z) ∨
        ((isArith i = true → s.cmp = false) ∧ ∃ v, u = writeReg r v (s.setFlags s.bcd s.cmp cy z))) := by
  rcases exec_cases h with ⟨r', v, cy, z, hr, ht, hz, hcy, hc⟩ | ⟨cy, z, ha, hc, ht⟩ | ⟨m, _, _, _, _, hm, -⟩ |
    ⟨_, _, _, e | e, -⟩ | ⟨_, _, _, e | e | e | e, -⟩ | ⟨_, e, -⟩ | ⟨_, e, -⟩ | ⟨e, -⟩ | ⟨e, -⟩ | ⟨e, -⟩ |
    ⟨_, _, e, -⟩ | ⟨e, -⟩ | ⟨e, -⟩
  · rw [hi] at hr
    cases hr
    exact ⟨cy, z, _, hz, hcy, ht, .inr ⟨hc, v, rfl⟩⟩
  · exact ⟨cy, z, _, by simp [ha], by simp [ha], ht, .inl ⟨ha, hc, rfl⟩⟩
  · rw [destReg_of_storeAddr hm] at hi
    cases hi
  all_goals
    rw [e] at hi
    cases hi

/-- Settles O32: a storing form is a change of CY and Z, then the store with its frame, then the next address. -/
theorem storingFormsFrame : Obligations.StoringFormsFrame := by
  unfold Obligations.StoringFormsFrame
  intro i m s t hi h
  obtain ⟨cy, z, u, hcz, rfl, hu⟩ := exec_storing_cases hi h
  have hframe : StoreFrame m (s.setFlags s.bcd s.cmp cy z) u := by
    rcases hu with ⟨-, -, rfl⟩ | ⟨-, v, hv⟩
    · exact storeFrame_refl m _
    · exact storeFrame_of_dmWrite hv
  obtain ⟨hpc, hcontrol, hregs, hbcd, hpsw, hB, hC, hD, hreads⟩ := hframe
  refine ⟨hcontrol, congrArg (· + 1) hpc, hregs, hbcd, fun hm => (hpsw hm).1, fun hm ha => ?_,
    fun hm => hB.resolve_right fun e => hm e.1, fun hm => hC.resolve_right fun e => hm e.1,
    fun hm => hD.resolve_right fun e => hm e.1, fun a ha => ?_, fun ha hc => ?_⟩
  · obtain ⟨-, hcy, hz⟩ := hpsw hm
    exact ⟨hcy.trans (hcz ha).1, hz.trans (hcz ha).2⟩
  · simp only [Bool.or_eq_false_iff, beq_eq_false_iff_ne, Bool.and_eq_false_iff] at ha
    rw [dmRead_advancePc, hreads a ha.1]
    exact dmRead_setFlags (fun _ => rfl) fun e => ⟨rfl, hcz (ha.2.resolve_right (absurd e))⟩
  · rcases hu with ⟨-, -, rfl⟩ | ⟨hc', -⟩
    · refine ⟨rfl, rfl, ⟨rfl, rfl, rfl, rfl, rfl, rfl⟩, rfl, rfl, fun a h7F => ?_⟩
      rw [dmRead_advancePc]
      exact dmRead_setFlags (fun _ => rfl) fun e => absurd e (by simpa using h7F)
    · rw [hc' ha] at hc
      cases hc

/-- Settles O33: a register form is a change of CY and Z, then the write of the register, then the next address. -/
theorem registerFormsFrame : Obligations.RegisterFormsFrame := by
  unfold Obligations.RegisterFormsFrame
  intro i r s t hi h
  obtain ⟨cy, z, u, hz, hcy, rfl, hu⟩ := exec_register_cases hi h
  have hflags : ∀ a : DAddr, (a = 0x7F → isArith i = false ∧ i ≠ .rorc r) →
      dmRead a (s.setFlags s.bcd s.cmp cy z) = dmRead a s :=
    fun a ha => dmRead_setFlags (fun _ => rfl) fun e => ⟨rfl, hcy (ha e).1 (ha e).2, hz (ha e).1⟩
  have hpsw : ∀ a : DAddr, ((isArith i || i == .rorc r) && a == 0x7F) = false → a = 0x7F →
      isArith i = false ∧ i ≠ .rorc r := by
    rintro a h rfl
    simpa using h
  rcases hu with ⟨ha, hc, rfl⟩ | ⟨hc', v, rfl⟩
  · refine ⟨⟨rfl, rfl, rfl, rfl, rfl, rfl, rfl, rfl, rfl⟩, rfl, ⟨rfl, rfl, rfl, rfl, rfl, rfl⟩, rfl, rfl,
      fun _ _ => ⟨rfl, rfl⟩, hz, hcy, fun a h => ?_, fun _ _ => ⟨rfl, rfl, fun a h7F => ?_⟩⟩
    · exact hflags a (hpsw a (Bool.or_eq_false_iff.1 h).2)
    · exact hflags a fun e => absurd e (by simpa using h7F)
  · refine ⟨⟨rfl, rfl, rfl, rfl, rfl, rfl, rfl, rfl, rfl⟩, rfl, ⟨rfl, rfl, rfl, rfl, rfl, rfl⟩, rfl, rfl, fun q hq => ?_,
      hz, hcy, fun a h => ?_, fun ha hc => ?_⟩
    · exact regOf_setRam_ne _ v fun e => hq (regIndex_inj.1 e).symm
    · obtain ⟨hr, h7F⟩ := Bool.or_eq_false_iff.1 h
      rw [dmRead_advancePc, dmRead_writeReg v _ (by simpa using hr)]
      exact hflags a (hpsw a h7F)
    · rw [hc' ha] at hc
      cases hc

/-- Settles O34: SKT and SKF end in a change of CMP, the skip flag and pc, the comparisons in one of the skip flag and pc. -/
theorem skipInstructionsFrame : Obligations.SkipInstructionsFrame := by
  unfold Obligations.SkipInstructionsFrame
  intro m n s t
  have judged : ∀ {test : Nibble → Nibble → Bool}, judge test m n s = .next t →
      t = { s with pc := s.pc + 1, cmp := false, skipPending := t.skipPending } ∧
      ReadsAsBefore (fun a => a == 0x7F) s t := by
    intro test h
    obtain ⟨v, u, -, -, rfl⟩ := judge_next h
    refine ⟨rfl, fun a ha => ?_⟩
    rw [dmRead_advancePc, dmRead_setSkip]
    exact dmRead_setFlags (fun _ => rfl) fun e => absurd e (by simpa using ha)
  have compared : ∀ {test : Nibble → Nibble → Bool}, compareSkip test m n s = .next t →
      t = { s with pc := s.pc + 1, skipPending := t.skipPending } ∧ ReadsAsBefore (fun _ => false) s t := by
    intro test h
    obtain ⟨v, -, rfl⟩ := compareSkip_next h
    exact ⟨rfl, fun _ _ => rfl⟩
  simp only [List.mem_cons, List.not_mem_nil, or_false]
  constructor
  · rintro i (rfl | rfl) h <;> exact judged h
  · rintro i (rfl | rfl | rfl | rfl) h
    · exact compared h
    · exact compared h
    · exact compared (test := fun v k => decide (k.toNat ≤ v.toNat)) h
    · exact compared (test := fun v k => decide (v.toNat < k.toNat)) h

/-- Pc, stack, skip flag and run mode are no data: with them changed in any way, RAM, flags, ports, ROM and every read are
as before. -/
theorem controlFrame (s : State) {pc asr : PAddr} {depth : Fin 2} {skip : Bool} {run : RunMode} {q : Prop} (hq : q) :
    let t : State := { s with pc := pc, asr := asr, depth := depth, skipPending := skip, run := run }
    t.ram = s.ram ∧ t.ramWritten = s.ramWritten ∧ SameFlags s t ∧ SamePorts s t ∧ SameFixed s t ∧
      ReadsAsBefore (fun _ => false) s t ∧ q :=
  ⟨rfl, rfl, ⟨rfl, rfl, rfl, rfl⟩, ⟨rfl, rfl, rfl, rfl, rfl, rfl⟩, ⟨rfl, rfl, rfl, rfl, rfl⟩, fun _ _ => rfl, hq⟩

/-- Settles O35: each of these instructions, when it completes, sets pc, stack, skip flag or run mode and nothing else. -/
theorem controlInstructionsFrame : Obligations.ControlInstructionsFrame := by
  unfold Obligations.ControlInstructionsFrame
  intro addr x s t i hi h
  simp only [List.mem_cons, List.not_mem_nil, or_false] at hi
  rcases hi with rfl | rfl | rfl | rfl | rfl | rfl | rfl
  · obtain ⟨-, rfl⟩ := execBr_next h
    exact controlFrame s (by simp)
  · obtain ⟨-, -, rfl⟩ := execCall_next h
    exact controlFrame s (by simp)
  · obtain ⟨-, rfl⟩ := execRet_next h
    exact controlFrame s (by simp)
  · obtain ⟨-, rfl⟩ := execRetsk_next h
    exact controlFrame s (by simp)
  · cases h
    exact controlFrame s (by simp)
  · obtain ⟨-, rfl⟩ := execHalt_next h
    exact controlFrame s (by simp)
  · obtain ⟨-, rfl⟩ := execStop_next h
    exact controlFrame s (by simp)

/-! ## Which instruction changes what -/

/-- Which instructions may change which part of the state: the rules of R27, R31 to R34, R67, R180 and R227 in one place. -/
structure ChangeRules (i : Instr) (s t : State) : Prop where
  z : t.z ≠ s.z → isArith i = true ∨ storeAddr i = some 0x7F ∨ isStopReset i
  cy : t.cy ≠ s.cy → isArith i = true ∨ (∃ r, i = .rorc r) ∨ storeAddr i = some 0x7F ∨ isStopReset i
  cmp : t.cmp ≠ s.cmp →
    ((∃ m n, i = .skt m n ∨ i = .skf m n) ∧ t.cmp = false) ∨ storeAddr i = some 0x7F ∨ isStopReset i
  bcd : t.bcd ≠ s.bcd → storeAddr i = some 0x7E ∨ isStopReset i
  stack : t.asr ≠ s.asr ∨ t.depth ≠ s.depth → (∃ addr, i = .call addr) ∨ i = .ret ∨ i = .retsk ∨ isStopReset i
  pc : t.pc ≠ s.pc + 1 → redirects i
  run : t.run ≠ s.run → (∃ x, i = .halt x) ∨ ∃ x, i = .stop x
  modeB : t.modeB ≠ s.modeB → (storeAddr i = some 0x71 ∧ t.modeB = .output) ∨ (isStopReset i ∧ t.modeB = .input)
  modeC : t.modeC ≠ s.modeC → (storeAddr i = some 0x72 ∧ t.modeC = .output) ∨ (isStopReset i ∧ t.modeC = .input)
  modeD : t.modeD ≠ s.modeD → (storeAddr i = some 0x73 ∧ t.modeD = .output) ∨ (isStopReset i ∧ t.modeD = .input)

theorem eq_true_of_changed {α : Type} {b : Bool} {x y : α} (h : b = false → x = y) (hne : x ≠ y) : b = true := by
  by_contra hb
  exact hne (h (by simpa using hb))

/-- A write of a register and of CY and Z, where arithmetic alone changes Z, and it and RORC alone CY. -/
theorem changeRules_register {i : Instr} {r v : Nibble} {cy z : Bool} {s : State} (hz : isArith i = false → z = s.z)
    (hcy : isArith i = false → i ≠ .rorc r → cy = s.cy) :
    ChangeRules i s (writeReg r v (s.setFlags s.bcd s.cmp cy z)).advancePc where
  z h := .inl (eq_true_of_changed hz h)
  cy h := by
    by_cases hr : i = .rorc r
    · exact .inr (.inl ⟨r, hr⟩)
    · exact .inl (eq_true_of_changed (fun ha => hcy ha hr) h)
  cmp h := absurd rfl h
  bcd h := absurd rfl h
  stack h := h.elim (absurd rfl) (absurd rfl)
  pc h := absurd rfl h
  run h := absurd rfl h
  modeB h := absurd rfl h
  modeC h := absurd rfl h
  modeD h := absurd rfl h

/-- A store to the operand, after a change of CY and Z that arithmetic alone makes. -/
theorem changeRules_store {i : Instr} {m : DAddr} {cy z : Bool} {s u : State} (hm : storeAddr i = some m)
    (hcz : isArith i = false → cy = s.cy ∧ z = s.z) (hu : StoreFrame m (s.setFlags s.bcd s.cmp cy z) u) :
    ChangeRules i s u.advancePc := by
  obtain ⟨hpc, ⟨hasr, hdepth, hrun, -⟩, -, hbcd, hpsw, hB, hC, hD, -⟩ := hu
  have at_m : ∀ {a : DAddr}, ¬ m ≠ a → storeAddr i = some a := fun h => by rw [hm, not_not.1 h]
  have port : ∀ {p : Prop} {a : DAddr} {m₁ m₀ : PortMode}, (p ∧ m₁ = m₀) ∨ (m = a ∧ m₁ = .output) → m₁ ≠ m₀ →
      storeAddr i = some a ∧ m₁ = .output := by
    rintro p a m₁ m₀ (⟨-, e⟩ | ⟨rfl, ho⟩) hne
    · exact absurd e hne
    · exact ⟨hm, ho⟩
  refine ⟨fun h => ?z, fun h => ?cy, fun h => .inr (.inl (at_m fun e => h (hpsw e).1)),
    fun h => .inl (at_m fun e => h (hbcd e)), fun h => h.elim (absurd hasr) (absurd hdepth),
    fun h => absurd (congrArg (· + 1) hpc) h, fun h => absurd hrun h, fun h => .inl (port hB h), fun h => .inl (port hC h),
    fun h => .inl (port hD h)⟩
  case z =>
    by_cases e : m = 0x7F
    · exact .inr (.inl (e ▸ hm))
    · exact .inl (eq_true_of_changed (fun ha => (hpsw e).2.2.trans (hcz ha).2) h)
  case cy =>
    by_cases e : m = 0x7F
    · exact .inr (.inr (.inl (e ▸ hm)))
    · exact .inl (eq_true_of_changed (fun ha => (hpsw e).2.1.trans (hcz ha).1) h)

/-- Every completing instruction follows the rules of change. -/
theorem exec_changeRules {i : Instr} {s t : State} (h : exec i s = .next t) : ChangeRules i s t := by
  rcases exec_cases h with ⟨r, v, cy, z, -, rfl, hz, hcy, -⟩ | ⟨cy, z, ha, -, rfl⟩ | ⟨m, v, u, cy, z, hm, hu, rfl, hcz, -⟩ |
    ⟨m, n, b, e, rfl⟩ | ⟨m, n, b, -, rfl⟩ | ⟨addr, rfl, rfl⟩ | ⟨addr, rfl, -, rfl⟩ | ⟨rfl, -, rfl⟩ | ⟨rfl, -, rfl⟩ |
    ⟨rfl, rfl⟩ | ⟨x, run, rfl, rfl, -⟩ | ⟨rfl, run, rfl, -⟩ | ⟨rfl, rfl⟩
  · exact changeRules_register hz hcy
  · constructor <;> simp [ha]
  · exact changeRules_store hm hcz (storeFrame_of_dmWrite hu)
  · have : ∃ m n, i = .skt m n ∨ i = .skf m n := ⟨m, n, e⟩
    constructor <;> simp [this]
  all_goals constructor <;> simp [redirects, isStopReset, enterStopReset]

/-- Settles O36, by the rules of change for Z and CY. -/
theorem onlyArithmeticAndRotationChangeZAndCy : Obligations.OnlyArithmeticAndRotationChangeZAndCy := by
  unfold Obligations.OnlyArithmeticAndRotationChangeZAndCy
  intro i s t h
  exact ⟨(exec_changeRules h).z, (exec_changeRules h).cy⟩

/-- Settles O37, by the rule of change for CMP. -/
theorem onlyJudgementResetsCmp : Obligations.OnlyJudgementResetsCmp := by
  unfold Obligations.OnlyJudgementResetsCmp
  intro i s t h
  exact (exec_changeRules h).cmp

/-- Settles O38, by the rule of change for BCD. -/
theorem onlyAWriteChangesBcd : Obligations.OnlyAWriteChangesBcd := by
  unfold Obligations.OnlyAWriteChangesBcd
  intro i s t h
  exact (exec_changeRules h).bcd

/-- Settles O40, by the rule of change for ASR and depth. -/
theorem onlyCallAndReturnsTouchTheStack : Obligations.OnlyCallAndReturnsTouchTheStack := by
  unfold Obligations.OnlyCallAndReturnsTouchTheStack
  intro i s t h
  exact (exec_changeRules h).stack

/-- Settles O41, by the rule of change for pc. -/
theorem onlyTransfersLeaveTheNextAddress : Obligations.OnlyTransfersLeaveTheNextAddress := by
  unfold Obligations.OnlyTransfersLeaveTheNextAddress
  intro i s t h
  exact (exec_changeRules h).pc

/-- Settles O42, by the rule of change for the run mode. -/
theorem onlyHaltAndStopLeaveOperation : Obligations.OnlyHaltAndStopLeaveOperation := by
  unfold Obligations.OnlyHaltAndStopLeaveOperation
  intro i s t h
  exact (exec_changeRules h).run

/-! ## The direction of the ports -/

/-- What a rule of change for a port's mode says of the two directions. -/
theorem stopReset_of_toInput {p q : Prop} {m₀ m₁ : PortMode} (h : m₁ ≠ m₀ → (p ∧ m₁ = .output) ∨ (q ∧ m₁ = .input))
    (h₀ : m₀ = .output) (h₁ : m₁ = .input) : q := by
  rcases h (by simp [h₀, h₁]) with ⟨-, e⟩ | ⟨hq, -⟩
  · rw [h₁] at e
    cases e
  · exact hq

theorem store_of_toOutput {p q : Prop} {m₀ m₁ : PortMode} (h : m₁ ≠ m₀ → (p ∧ m₁ = .output) ∨ (q ∧ m₁ = .input))
    (h₀ : m₀ = .input) (h₁ : m₁ = .output) : p := by
  rcases h (by simp [h₀, h₁]) with ⟨hp, -⟩ | ⟨-, e⟩
  · exact hp
  · rw [h₁] at e
    cases e

/-- A step with RESET high in which no instruction runs keeps the direction of every port (R39, R228 to R233). -/
theorem step_modes_or_exec {s t : State} (h : step s = .next t) (hr : resetLevel s = true) :
    (t.modeB = s.modeB ∧ t.modeC = s.modeC ∧ t.modeD = s.modeD) ∨
    (s.run = .operating ∧ s.skipPending = false ∧ ∃ i u, fetchInstr s = .ok i ∧ exec i s = .next u ∧ t = u.tick) := by
  rcases step_cases h with ⟨hlow, -⟩ | ⟨-, -, rfl⟩ | ⟨-, -, -, rfl⟩ | ⟨-, hrun⟩
  · rw [hr] at hlow
    cases hlow
  · obtain ⟨m, hm⟩ := idleStep_eq_setRun s
    rw [hm]
    exact .inl ⟨rfl, rfl, rfl⟩
  · exact .inl ⟨rfl, rfl, rfl⟩
  · exact .inr hrun

/-- Settles O39: only an instruction changes a port's direction, and the rules of change name which. -/
theorem portDirectionRule : Obligations.PortDirectionRule := by
  unfold Obligations.PortDirectionRule
  constructor
  · intro s t h hr hturn
    rcases step_modes_or_exec h hr with ⟨hB, hC, hD⟩ | ⟨hop, hskip, i, u, hf, hu, rfl⟩
    · rw [hB, hC, hD] at hturn
      rcases hturn with ⟨ho, hi⟩ | ⟨ho, hi⟩ | ⟨ho, hi⟩ <;> simp [ho] at hi
    · have rules := exec_changeRules hu
      have hstop : i = .stop 0 := by
        rcases hturn with ⟨ho, hi⟩ | ⟨ho, hi⟩ | ⟨ho, hi⟩
        · exact stopReset_of_toInput rules.modeB ho hi
        · exact stopReset_of_toInput rules.modeC ho hi
        · exact stopReset_of_toInput rules.modeD ho hi
      exact ⟨hop, hskip, hstop ▸ hf⟩
  · intro i s t h
    have rules := exec_changeRules h
    exact ⟨store_of_toOutput rules.modeB, store_of_toOutput rules.modeC, store_of_toOutput rules.modeD⟩

end Sys2Proof.Proofs
end

section
/-! PROOF. Steps and runs: the invariant, the ROM, reset, the standby modes and their release, and what a step executes
(spec/10_state.md R39, R42; spec/60_exceptions.md R224 to R233; spec/70_reset_and_hazards.md R260 to R262). -/

namespace Sys2Proof.Proofs

open Sys2Proof.Machine Sys2Proof.Claims

/-! ## What no step changes -/

theorem exec_sameFixed {i : Instr} {s t : State} (h : exec i s = .next t) : SameFixed s t := by
  rcases exec_cases h with ⟨_, _, _, _, -, rfl, -⟩ | ⟨_, _, -, -, rfl⟩ | ⟨m, v, u, cy, z, -, hu, rfl, -⟩ |
    ⟨_, _, _, -, rfl⟩ | ⟨_, _, _, -, rfl⟩ | ⟨_, -, rfl⟩ | ⟨_, -, -, rfl⟩ | ⟨-, -, rfl⟩ | ⟨-, -, rfl⟩ | ⟨-, rfl⟩ |
    ⟨_, _, -, rfl, -⟩ | ⟨-, _, rfl, -⟩ | ⟨-, rfl⟩
  case inr.inr.inl =>
    obtain ⟨-, -, -, -, hfixed⟩ := (storeFrame_of_dmWrite hu).control
    exact hfixed
  all_goals exact ⟨rfl, rfl, rfl, rfl, rfl⟩

theorem enterReset_rom_params (s : State) : (enterReset s).rom = s.rom ∧ (enterReset s).params = s.params := by
  unfold enterReset
  split <;> exact ⟨rfl, rfl⟩

theorem resetStep_rom_params (s : State) : (resetStep s).rom = s.rom ∧ (resetStep s).params = s.params := by
  unfold resetStep
  split
  · exact ⟨rfl, rfl⟩
  · exact enterReset_rom_params s

theorem step_rom_params {s t : State} (h : step s = .next t) : t.rom = s.rom ∧ t.params = s.params := by
  rcases step_cases h with ⟨-, rfl⟩ | ⟨-, -, rfl⟩ | ⟨-, -, -, rfl⟩ | ⟨-, -, -, i, u, -, hu, rfl⟩
  · exact resetStep_rom_params s
  · obtain ⟨m, hm⟩ := idleStep_eq_setRun s
    rw [hm]
    exact ⟨rfl, rfl⟩
  · exact ⟨rfl, rfl⟩
  · obtain ⟨hrom, hparams, -⟩ := exec_sameFixed hu
    exact ⟨hrom, hparams⟩

/-- A run of `k + 1` steps is a step and a run of `k` steps. -/
theorem run_succ_next {M : Host.Core} {k : Nat} {s t : M.State} (h : M.run (k + 1) s = .next t) :
    ∃ u, M.step s = .next u ∧ M.run k u = .next t := by
  rw [Host.Core.run] at h
  split at h
  case h_1 u hu => exact ⟨u, hu, h⟩
  all_goals cases h

theorem run_succ_of_step {M : Host.Core} {k : Nat} {s u : M.State} (h : M.step s = .next u) :
    M.run (k + 1) s = M.run k u := by
  rw [Host.Core.run, h]

/-- Settles O60, by induction on the number of steps: each keeps ROM and parameters. -/
theorem noRunChangesTheRom : Obligations.NoRunChangesTheRom := by
  unfold Obligations.NoRunChangesTheRom
  intro k
  induction k with
  | zero =>
    intro s t h
    cases h
    exact ⟨rfl, rfl⟩
  | succ k ih =>
    intro s t h
    obtain ⟨u, hu, hrun⟩ := run_succ_next h
    obtain ⟨hrom, hparams⟩ := step_rom_params hu
    exact ⟨(ih u t hrun).1.trans hrom, (ih u t hrun).2.trans hparams⟩

/-! ## The invariant -/

theorem inv_tick {s : State} (h : Inv s) : Inv s.tick := h

/-- What a completing instruction does to run mode and skip flag: the mode stays; or it becomes a standby mode, but not that
of STOP 0000B, with the skip flag as it was; or it is that of STOP 0000B and the chip is initialised. -/
theorem exec_run_cases {i : Instr} {s t : State} (h : exec i s = .next t) :
    t.run = s.run ∨ (((∃ b, t.run = .halt b) ∨ t.run = .stop true) ∧ t.skipPending = s.skipPending) ∨
    (t.run = .stop false ∧ Initialised t) := by
  rcases exec_cases h with ⟨_, _, _, _, -, rfl, -⟩ | ⟨_, _, -, -, rfl⟩ | ⟨m, v, u, cy, z, -, hu, rfl, -⟩ |
    ⟨_, _, _, -, rfl⟩ | ⟨_, _, _, -, rfl⟩ | ⟨_, -, rfl⟩ | ⟨_, -, -, rfl⟩ | ⟨-, -, rfl⟩ | ⟨-, -, rfl⟩ | ⟨-, rfl⟩ |
    ⟨_, run, -, rfl, hrun⟩ | ⟨-, run, rfl, hrun⟩ | ⟨-, rfl⟩
  · exact .inl rfl
  · exact .inl rfl
  · obtain ⟨-, -, hrun, -⟩ := (storeFrame_of_dmWrite hu).control
    exact .inl hrun
  · exact .inl rfl
  · exact .inl rfl
  · exact .inl rfl
  · exact .inl rfl
  · exact .inl rfl
  · exact .inl rfl
  · exact .inl rfl
  · exact hrun.imp id fun hb => .inl ⟨.inl hb, rfl⟩
  · exact hrun.imp id fun hb => .inl ⟨.inr hb, rfl⟩
  · exact .inr (.inr ⟨rfl, initialised_enterStopReset s⟩)

theorem inv_of_operating {s : State} (hrom : s.rom.wf = true) (h : s.run = .operating) : Inv s :=
  ⟨hrom, fun hn => absurd h hn, fun hr => by simp [h] at hr⟩

theorem inv_of_initialised {s : State} (hrom : s.rom.wf = true) (h : Initialised s) : Inv s := by
  have hskip : s.skipPending = false := by
    obtain ⟨-, -, -, -, -, -, -, -, -, hskip⟩ := h
    exact hskip
  exact ⟨hrom, fun _ => hskip, fun _ => h⟩

theorem inv_resetStep {s : State} (h : Inv s) : Inv (resetStep s) := by
  unfold resetStep
  split
  · exact h
  · refine inv_of_initialised ?_ (initialised_enterReset s)
    rw [(enterReset_rom_params s).1]
    exact h.1

theorem inv_idleStep {s : State} (h : Inv s) (ho : s.run ≠ .operating) : Inv (idleStep s) := by
  obtain ⟨hrom, hskip, -⟩ := id h
  have toWait : Inv (s.setRun .wait) := ⟨hrom, fun _ => hskip ho, fun hr => by simp at hr⟩
  have toOperating : Inv (s.setRun .operating) := inv_of_operating hrom rfl
  unfold idleStep
  split
  case h_1 => exact h
  case h_2 =>
    split
    · exact toOperating
    · exact h
  case h_3 =>
    split
    · exact toWait
    · exact h
  case h_4 => exact toWait
  case h_5 => exact toOperating

theorem inv_exec {i : Instr} {s t : State} (h : Inv s) (ho : s.run = .operating) (hskip : s.skipPending = false)
    (ht : exec i s = .next t) : Inv t := by
  have hrom : t.rom.wf = true := by
    obtain ⟨e, -⟩ := exec_sameFixed ht
    rw [e]
    exact h.1
  rcases exec_run_cases ht with hrun | ⟨hrun, hs⟩ | ⟨-, hinit⟩
  · exact inv_of_operating hrom (hrun.trans ho)
  · refine ⟨hrom, fun _ => hs.trans hskip, fun hr => ?_⟩
    rcases hrun with ⟨b, e⟩ | e <;> simp [e] at hr
  · exact inv_of_initialised hrom hinit

/-- Settles O59, by what a step can be: a reset initialises, a standby mode only moves on, a skipped slot stays in operation,
and an instruction that leaves operation keeps the skip flag or initialises. -/
theorem stepKeepsTheInvariant : Obligations.StepKeepsTheInvariant := by
  unfold Obligations.StepKeepsTheInvariant
  intro s t h ht
  rcases step_cases ht with ⟨-, rfl⟩ | ⟨-, ho, rfl⟩ | ⟨-, ho, -, rfl⟩ | ⟨-, ho, hskip, i, u, -, hu, rfl⟩
  · exact inv_tick (inv_resetStep h)
  · exact inv_tick (inv_idleStep h ho)
  · exact inv_tick (inv_of_operating h.1 ho)
  · exact inv_tick (inv_exec h ho hskip hu)

/-- Settles O58: at reset the ROM is empty and the machine operates with nothing to skip. -/
theorem resetStateMeetsTheInvariant : Obligations.ResetStateMeetsTheInvariant := by
  unfold Obligations.ResetStateMeetsTheInvariant
  exact inv_of_operating Rom.wf_nil rfl

/-- Settles O57: the fields of `State.reset`, and three reads that give its flags. -/
theorem resetStateIsTheSpecs : Obligations.ResetStateIsTheSpecs := by
  unfold Obligations.ResetStateIsTheSpecs
  decide

/-! ## The step in each situation -/

theorem step_resetLow {s : State} (hr : resetLevel s = false) : step s = .next (resetStep s).tick := if_pos hr

theorem step_idle {s : State} (hr : resetLevel s = true) (ho : s.run ≠ .operating) :
    step s = .next (idleStep s).tick := by
  simp [step, hr, ho]

theorem step_operate {s : State} (hr : resetLevel s = true) (ho : s.run = .operating) : step s = operate s := by
  simp [step, hr, ho]

theorem step_of_fetch {s : State} {i : Instr} (hr : resetLevel s = true) (ho : s.run = .operating)
    (hs : s.skipPending = false) (hf : fetchInstr s = .ok i) : step s = tickOut (exec i s) := by
  rw [step_operate hr ho, operate, if_neg (by simp [hs]), hf]

theorem step_of_fetch_error {s : State} {f : Fault} (hr : resetLevel s = true) (ho : s.run = .operating)
    (hs : s.skipPending = false) (hf : fetchInstr s = .error f) : step s = .fault f := by
  rw [step_operate hr ho, operate, if_neg (by simp [hs]), hf]

theorem fetchInstr_of_decode {s : State} {w : Word} {i : Instr} (hw : s.rom.read s.pc.toNat = some w)
    (hi : decode w = .ok i) : fetchInstr s = .ok i := by
  simp [fetchInstr, hw, hi]

/-- Settles O45: the fetched word is decoded, and the outcome of `exec` passes one step of time. -/
theorem stepRunsTheDecodedInstruction : Obligations.StepRunsTheDecodedInstruction := by
  unfold Obligations.StepRunsTheDecodedInstruction
  intro s w i hr ho hs hw hi
  rw [step_of_fetch hr ho hs (fetchInstr_of_decode hw hi)]
  constructor
  · intro t ht
    rw [ht]
    rfl
  · intro f hf
    rw [hf]
    rfl

/-- Settles O46: the two ways in which the fetch fails. -/
theorem stepFaultsOnWhatIsNoInstruction : Obligations.StepFaultsOnWhatIsNoInstruction := by
  unfold Obligations.StepFaultsOnWhatIsNoInstruction
  intro s hr ho hs
  constructor
  · intro w e hw he
    exact step_of_fetch_error hr ho hs (by simp [fetchInstr, hw, he])
  · intro hw
    exact step_of_fetch_error hr ho hs (by simp [fetchInstr, hw])

/-- Settles O47: a pending skip is used up before any fetch. -/
theorem stepSkipsThePendingSlot : Obligations.StepSkipsThePendingSlot := by
  unfold Obligations.StepSkipsThePendingSlot
  intro s hr ho hs
  rw [step_operate hr ho, operate, if_pos hs]
  rfl

theorem wordOfBits_toNat (w : Word) : wordOfBits 16 w.toNat = w := by
  rw [wordOfBits, Nat.mod_eq_of_lt w.isLt, BitVec.ofNat_toNat, BitVec.setWidth_eq]

/-- Settles O48: the word placed at pc is read back, with RESET driven high, in operating mode, with nothing to skip. -/
theorem placedWordIsRunNext : Obligations.PlacedWordIsRunNext := by
  unfold Obligations.PlacedWordIsRunNext
  intro s w i hi
  rw [State.withFetchWord, wordOfBits_toNat]
  refine ⟨?_, rfl, rfl, fun h => Rom.wf_write w s.pc.isLt h⟩
  refine step_of_fetch ?_ rfl rfl (fetchInstr_of_decode (Rom.read_write_same s.rom s.pc.toNat w) hi)
  cases hp : s.params.pullUpReset <;> simp [loadWordAtPc, resetLevel, padLevel, hp]

/-! ## Reset -/

theorem step_takesReset {s : State} (hr : resetLevel s = false) (hrun : s.run ≠ .reset) :
    step s = .next (enterReset s).tick := by
  rw [step_resetLow hr, resetStep, if_neg hrun]

/-- Settles O49: a reset of kind A, in which the data is lost before the chip is initialised. -/
theorem resetDuringOperation : Obligations.ResetDuringOperation := by
  unfold Obligations.ResetDuringOperation
  intro s hr hrun
  have hkind : resetKeepsData s.run = false := by rcases hrun with e | e <;> rw [e] <;> rfl
  have hreset : enterReset s = s.loseData.initialise.setRun .reset := by simp [enterReset, hkind]
  refine ⟨(enterReset s).tick, step_takesReset hr (by rcases hrun with e | e <;> simp [e]),
    initialised_tick (initialised_enterReset s), ?_⟩
  rw [hreset]
  refine ⟨rfl, rfl, rfl, fun k => ⟨?_, ?_⟩, rfl, rfl, rfl⟩
  · exact Vector.getElem_ofFn k.isLt
  · exact Vector.getElem_replicate k.isLt

/-- Settles O50: a reset of kind B initialises the chip and keeps its data. -/
theorem resetDuringStandbyKeepsData : Obligations.ResetDuringStandbyKeepsData := by
  unfold Obligations.ResetDuringStandbyKeepsData
  intro s b hr hrun
  have hkind : resetKeepsData s.run = true := by rcases hrun with e | e <;> rw [e] <;> rfl
  have hreset : enterReset s = s.initialise.setRun .reset := by simp [enterReset, hkind]
  refine ⟨(enterReset s).tick, step_takesReset hr (by rcases hrun with e | e <;> simp [e]),
    initialised_tick (initialised_enterReset s), ?_⟩
  rw [hreset]
  exact ⟨rfl, rfl, rfl, rfl, rfl, rfl, rfl, rfl⟩

/-- Settles O51: in the reset mode a step with RESET low takes no new reset. -/
theorem heldWhileResetIsLow : Obligations.HeldWhileResetIsLow := by
  unfold Obligations.HeldWhileResetIsLow
  intro s hr hrun
  rw [step_resetLow hr, resetStep, if_pos hrun]
  rfl

theorem idleStep_reset {s : State} (h : s.run = .reset) : idleStep s = s.setRun .wait := by
  simp [idleStep, h]

theorem idleStep_wait {s : State} (h : s.run = .wait) : idleStep s = s.setRun .operating := by
  simp [idleStep, h]

theorem idleStep_halt {s : State} {b : Bool} (h : s.run = .halt b) :
    idleStep s = s.setRun (if b && pinLevel s .p0b0 then .operating else .halt b) := by
  have hstay : s = s.setRun (.halt b) := by rw [← h]; rfl
  cases hb : b && pinLevel s .p0b0
  · simpa [idleStep, h, hb] using hstay
  · simp [idleStep, h, hb]

theorem idleStep_stop {s : State} {b : Bool} (h : s.run = .stop b) :
    idleStep s = s.setRun (if b && pinLevel s .p0b1 then .wait else .stop b) := by
  have hstay : s = s.setRun (.stop b) := by rw [← h]; rfl
  cases hb : b && pinLevel s .p0b1
  · simpa [idleStep, h, hb] using hstay
  · simp [idleStep, h, hb]

/-- Settles O52: the reset mode leads to the wait and the wait to operation; the invariant says that the reset mode holds
the initialised state, and neither step changes it. -/
theorem executionStartsAt000AfterReset : Obligations.ExecutionStartsAt000AfterReset := by
  unfold Obligations.ExecutionStartsAt000AfterReset
  rintro s ⟨-, -, hinit⟩ hrun hr
  refine ⟨(s.setRun .wait).tick, ?_, rfl, fun hr' => ?_⟩
  · rw [step_idle hr (by simp [hrun]), idleStep_reset hrun]
  · refine ⟨((s.setRun .wait).tick.setRun .operating).tick, ?_, rfl, ?_, rfl, rfl, rfl, rfl, rfl⟩
    · rw [step_idle hr' (by simp), idleStep_wait rfl]
    · exact initialised_tick (initialised_setRun (hinit (.inl hrun)) .operating)

/-! ## Release from the standby modes -/

/-- Settles O53: the step in HALT mode, where P0B0 may end it. -/
theorem haltReleaseByPin : Obligations.HaltReleaseByPin := by
  unfold Obligations.HaltReleaseByPin
  intro s hrun hr
  rw [step_idle hr (by simp [hrun]), idleStep_halt hrun]
  rfl

/-- Settles O54: the step in STOP mode, where P0B1 may end it, and the step in the wait. -/
theorem stopReleaseByPin : Obligations.StopReleaseByPin := by
  unfold Obligations.StopReleaseByPin
  intro s hr
  constructor
  · intro hrun
    rw [step_idle hr (by simp [hrun]), idleStep_stop hrun]
    rfl
  · intro hrun
    rw [step_idle hr (by simp [hrun]), idleStep_wait hrun]
    rfl

theorem resetLevel_of_resetHigh {s : State} (h : ResetHigh s.params s.pins) : resetLevel s = true := by
  unfold resetLevel
  rcases h with hp | hp | ⟨hp, hpull⟩
  · cases s.params.pullUpReset <;> simp [hp, padLevel]
  · cases s.params.pullUpReset <;> simp [hp, padLevel]
  · simp [hp, hpull, padLevel]

theorem neverReset_tick {s : State} (h : NeverReset s) : NeverReset s.tick := by
  obtain ⟨hnow, hlater⟩ := h
  cases hi : s.inputs with
  | nil => exact ⟨by simpa [hi] using hnow, by simp [hi]⟩
  | cons p ps =>
    rw [hi] at hlater
    refine ⟨by simpa [hi] using hlater p List.mem_cons_self, fun q hq => hlater q (List.mem_cons_of_mem p ?_)⟩
    simpa [hi] using hq

theorem idleStep_finished {s : State} (h : Finished s) : idleStep s = s := by
  rcases h with h | h <;> simp [idleStep, h]

theorem step_finished {s : State} (h : Finished s) (hr : NeverReset s) : step s = .next s.tick := by
  have ho : s.run ≠ .operating := by rcases h with e | e <;> simp [e]
  rw [step_idle (resetLevel_of_resetHigh hr.1) ho, idleStep_finished h]

/-- Settles O55, by induction on the number of steps: a step of a finished machine that sees RESET high is one of time, and
leaves a finished machine with fewer samples to come, all with RESET high. -/
theorem onlyResetEndsHalt0AndStop0 : Obligations.OnlyResetEndsHalt0AndStop0 := by
  unfold Obligations.OnlyResetEndsHalt0AndStop0
  intro k
  induction k with
  | zero => exact fun s _ _ => ⟨s, rfl, rfl⟩
  | succ k ih =>
    intro s hfin hreset
    obtain ⟨t, hrun, ht⟩ := ih s.tick hfin (neverReset_tick hreset)
    refine ⟨t, ?_, ht.trans ?_⟩
    · rw [run_succ_of_step (M := Sys2Proof.core) (step_finished hfin hreset)]
      exact hrun
    · rw [State.tick_time, Nat.add_assoc, Nat.add_comm 1 k]
      rfl

end Sys2Proof.Proofs
end

section
/-! PROOF. What no instruction can observe: the latch of a port in input mode (spec/10_state.md R38) and the ASR of an empty
stack (R27, R29). Both follow from one theorem about relations between states that every operation respects. -/

namespace Sys2Proof.Proofs

open Sys2Proof.Machine

/-! ## Relations that instructions respect -/

/-- `R` relates states that agree on all that an instruction observes, and every update that instructions are made of leads
from related states to related states. ASR is observed only while the stack holds a return address. -/
structure Unobserved (R : State → State → Prop) : Prop where
  reads : ∀ {s s' : State}, R s s' → ∀ a, dmRead a s' = dmRead a s
  pins : ∀ {s s' : State}, R s s' → ∀ p, pinLevel s' p = pinLevel s p
  flags : ∀ {s s' : State}, R s s' → s'.bcd = s.bcd ∧ s'.cmp = s.cmp ∧ s'.cy = s.cy ∧ s'.z = s.z
  control : ∀ {s s' : State}, R s s' →
    s'.pc = s.pc ∧ s'.depth = s.depth ∧ s'.skipPending = s.skipPending ∧ s'.run = s.run ∧ s'.params = s.params
  asr : ∀ {s s' : State}, R s s' → s.depth ≠ 0 → s'.asr = s.asr
  setPc : ∀ {s s' : State}, R s s' → ∀ a, R (s.setPc a) (s'.setPc a)
  setFlags : ∀ {s s' : State}, R s s' → ∀ b c d e, R (s.setFlags b c d e) (s'.setFlags b c d e)
  setRam : ∀ {s s' : State}, R s s' → ∀ i v, R (s.setRam i v) (s'.setRam i v)
  drivePortB : ∀ {s s' : State}, R s s' → ∀ v, R (s.drivePortB v) (s'.drivePortB v)
  drivePortC : ∀ {s s' : State}, R s s' → ∀ v, R (s.drivePortC v) (s'.drivePortC v)
  drivePortD : ∀ {s s' : State}, R s s' → ∀ v, R (s.drivePortD v) (s'.drivePortD v)
  setSkip : ∀ {s s' : State}, R s s' → ∀ b, R (s.setSkip b) (s'.setSkip b)
  setRun : ∀ {s s' : State}, R s s' → ∀ m, R (s.setRun m) (s'.setRun m)
  setStack : ∀ {s s' : State}, R s s' → ∀ a d, R (s.setStack a d) (s'.setStack a d)
  initialise : ∀ {s s' : State}, R s s' → R s.initialise s'.initialise

/-- Both outcomes are next states that `R` relates, or the same fault, or the same refusal. -/
inductive Alike (R : State → State → Prop) : Out → Out → Prop where
  | next {t t' : State} (h : R t t') : Alike R (.next t) (.next t')
  | fault (f : Fault) : Alike R (.fault f) (.fault f)
  | refused (r : Refusal) : Alike R (.refused r) (.refused r)

/-- The same for the outcome of a store. -/
inductive AlikeStore (R : State → State → Prop) : Except Fault State → Except Fault State → Prop where
  | ok {t t' : State} (h : R t t') : AlikeStore R (.ok t) (.ok t')
  | error (f : Fault) : AlikeStore R (.error f) (.error f)

section

variable {R : State → State → Prop} {s s' : State} (hR : Unobserved R) (h : R s s')

include hR h

theorem advancePc_alike : R s.advancePc s'.advancePc := by
  obtain ⟨hpc, -⟩ := hR.control h
  rw [State.advancePc, State.advancePc, hpc]
  exact hR.setPc h _

theorem accessible_alike (a : DAddr) : accessible a s' = accessible a s := by
  obtain ⟨-, -, -, -, hparams⟩ := hR.control h
  rw [accessible, accessible, hparams]

theorem readThen_alike {a : DAddr} {k k' : Nibble → Out} (hk : ∀ v, Alike R (k v) (k' v)) :
    Alike R (readThen a s k) (readThen a s' k') := by
  rw [readThen, readThen, hR.reads h]
  cases dmRead a s with
  | error f => exact .fault f
  | ok v => exact hk v

theorem addressThen_alike {a : DAddr} {k k' : Out} (hk : Alike R k k') :
    Alike R (addressThen a s k) (addressThen a s' k') := by
  rw [addressThen, addressThen, accessible_alike hR h]
  split
  · exact hk
  · exact .fault _

theorem readBoth_alike {r : Nibble} {m : DAddr} {k k' : Nibble → Nibble → Out}
    (hk : ∀ a b, Alike R (k a b) (k' a b)) : Alike R (readBoth r m s k) (readBoth r m s' k') :=
  addressThen_alike hR h (readThen_alike hR h fun a => readThen_alike hR h (hk a))

theorem dmWrite_alike (m : DAddr) (v : Nibble) : AlikeStore R (dmWrite m v s) (dmWrite m v s') := by
  obtain ⟨hbcd, hcmp, hcy, hz⟩ := hR.flags h
  obtain ⟨-, -, -, -, hparams⟩ := hR.control h
  unfold dmWrite
  rw [hparams, hbcd, hcmp, hcy, hz]
  cases region m with
  | ram i => exact .ok (hR.setRam h i v)
  | unmapped =>
    cases s.params.unmappedDm with
    | fault => exact .error _
    | readZeroWriteIgnored => exact .ok h
  | portB => exact .ok (hR.drivePortB h _)
  | portC => exact .ok (hR.drivePortC h v)
  | portD => exact .ok (hR.drivePortD h v)
  | fixedZero => exact .ok h
  | bcdFlag => exact .ok (hR.setFlags h _ _ _ _)
  | psw => exact .ok (hR.setFlags h _ _ _ _)

omit h in
theorem thenAdvance_alike {r r' : Except Fault State} (hr : AlikeStore R r r') :
    Alike R (thenAdvance r) (thenAdvance r') := by
  cases hr with
  | ok ht => exact .next (advancePc_alike hR ht)
  | error f => exact .fault f

theorem store_alike (m : DAddr) (v : Nibble) : Alike R (thenAdvance (dmWrite m v s)) (thenAdvance (dmWrite m v s')) :=
  thenAdvance_alike hR (dmWrite_alike hR h m v)

theorem arithCommit_alike (dest : DAddr) (o : AluOut) : AlikeStore R (arithCommit dest o s) (arithCommit dest o s') := by
  obtain ⟨hbcd, hcmp, -, hz⟩ := hR.flags h
  unfold arithCommit
  rw [hbcd, hcmp, hz]
  have hflags := hR.setFlags h s.bcd s.cmp o.cy (zAfter o.res s.cmp s.z)
  split
  · exact .ok hflags
  · exact dmWrite_alike hR hflags dest o.res

theorem arithRM_alike (alu : Bool → Nibble → Nibble → Bool → AluOut) {c c' : Bool} (hc : c' = c) (r : Nibble)
    (m : DAddr) : Alike R (arithRM alu c r m s) (arithRM alu c' r m s') := by
  obtain ⟨hbcd, -⟩ := hR.flags h
  refine readBoth_alike hR h fun a b => ?_
  rw [hbcd, hc]
  exact thenAdvance_alike hR (arithCommit_alike hR h _ _)

theorem arithMI_alike (alu : Bool → Nibble → Nibble → Bool → AluOut) {c c' : Bool} (hc : c' = c) (m : DAddr)
    (n4 : Nibble) : Alike R (arithMI alu c m n4 s) (arithMI alu c' m n4 s') := by
  obtain ⟨hbcd, -⟩ := hR.flags h
  refine readThen_alike hR h fun a => ?_
  rw [hbcd, hc]
  exact thenAdvance_alike hR (arithCommit_alike hR h _ _)

theorem writeReg_alike (r v : Nibble) : Alike R (.next (writeReg r v s).advancePc) (.next (writeReg r v s').advancePc) :=
  .next (advancePc_alike hR (hR.setRam h _ v))

theorem logicRM_alike (f : Nibble → Nibble → Nibble) (r : Nibble) (m : DAddr) :
    Alike R (logicRM f r m s) (logicRM f r m s') :=
  readBoth_alike hR h fun a b => writeReg_alike hR h r (f a b)

theorem logicMI_alike (f : Nibble → Nibble → Nibble) (m : DAddr) (n4 : Nibble) :
    Alike R (logicMI f m n4 s) (logicMI f m n4 s') :=
  readThen_alike hR h fun a => store_alike hR h m (f a n4)

theorem skipIf_alike (b : Bool) : Alike R (skipIf b s) (skipIf b s') := by
  obtain ⟨-, -, hskip, -⟩ := hR.control h
  rw [skipIf, skipIf, hskip]
  exact .next (advancePc_alike hR (hR.setSkip h _))

theorem testedNibble_alike (m : DAddr) (n v : Nibble) : testedNibble m n v s' = testedNibble m n v s := by
  obtain ⟨hpc, -, -, -, hparams⟩ := hR.control h
  rw [testedNibble, testedNibble, hpc, hparams]

theorem judge_alike (test : Nibble → Nibble → Bool) (m : DAddr) (n : Nibble) :
    Alike R (judge test m n s) (judge test m n s') := by
  obtain ⟨hbcd, -, hcy, hz⟩ := hR.flags h
  refine readThen_alike hR h fun v => ?_
  rw [testedNibble_alike hR h, hbcd, hcy, hz]
  cases testedNibble m n v s with
  | error f => exact .fault f
  | ok u => exact skipIf_alike hR (hR.setFlags h _ _ _ _) _

theorem compareSkip_alike (test : Nibble → Nibble → Bool) (m : DAddr) (n4 : Nibble) :
    Alike R (compareSkip test m n4 s) (compareSkip test m n4 s') :=
  readThen_alike hR h fun v => skipIf_alike hR h (test v n4)

theorem execRorc_alike (r : Nibble) : Alike R (execRorc r s) (execRorc r s') := by
  obtain ⟨hbcd, hcmp, hcy, hz⟩ := hR.flags h
  refine readThen_alike hR h fun v => ?_
  rw [hbcd, hcmp, hcy, hz]
  exact .next (advancePc_alike hR (hR.setFlags (hR.setRam h _ _) _ _ _ _))

theorem execBr_alike (addr : BitVec 11) : Alike R (execBr addr s) (execBr addr s') := by
  obtain ⟨hpc, -⟩ := hR.control h
  rw [execBr, execBr, hpc]
  split
  · exact .next (hR.setPc h _)
  · exact .fault _

theorem execCall_alike (addr : BitVec 11) : Alike R (execCall addr s) (execCall addr s') := by
  obtain ⟨hpc, hdepth, -⟩ := hR.control h
  rw [execCall, execCall, hpc, hdepth]
  split
  · split
    · exact .fault _
    · exact .next (hR.setPc (hR.setStack h _ _) _)
  · exact .fault _

theorem popReturn_alike : AlikeStore R (popReturn s) (popReturn s') := by
  obtain ⟨hpc, hdepth, -⟩ := hR.control h
  rw [popReturn, popReturn, hpc, hdepth]
  by_cases hd : s.depth = 0
  · rw [if_pos hd, if_pos hd]
    exact .error _
  · rw [if_neg hd, if_neg hd, hR.asr h hd]
    exact .ok (hR.setPc (hR.setStack h _ _) _)

theorem execRet_alike : Alike R (execRet s) (execRet s') := by
  have hpop := popReturn_alike hR h
  unfold execRet
  generalize popReturn s = r, popReturn s' = r' at hpop ⊢
  cases hpop with
  | ok ht => exact .next ht
  | error f => exact .fault f

theorem execRetsk_alike : Alike R (execRetsk s) (execRetsk s') := by
  have hpop := popReturn_alike hR h
  unfold execRetsk
  generalize popReturn s = r, popReturn s' = r' at hpop ⊢
  cases hpop with
  | ok ht => exact .next (hR.setSkip ht true)
  | error f => exact .fault f

theorem execHalt_alike (x : Nibble) : Alike R (execHalt x s) (execHalt x s') := by
  obtain ⟨hpc, -, -, hrun, -⟩ := hR.control h
  rw [execHalt, execHalt, hpc, hrun, hR.pins h]
  split
  · exact .next (hR.setRun (advancePc_alike hR h) _)
  · exact .fault _

theorem execStop_alike (x : Nibble) : Alike R (execStop x s) (execStop x s') := by
  obtain ⟨hpc, -, -, hrun, -⟩ := hR.control h
  rw [execStop, execStop, hpc, hrun, hR.pins h]
  split
  · split
    · exact .next (hR.setRun (advancePc_alike hR h) _)
    · exact .next (hR.setRun (hR.initialise h) _)
  · exact .fault _

/-- Every instruction behaves alike in related states. -/
theorem exec_alike (i : Instr) : Alike R (exec i s) (exec i s') := by
  obtain ⟨-, -, hcy, -⟩ := hR.flags h
  cases i with
  | addRM r m | subRM r m => exact arithRM_alike hR h _ rfl r m
  | addcRM r m | subcRM r m => exact arithRM_alike hR h _ hcy r m
  | addMI m n4 | subMI m n4 => exact arithMI_alike hR h _ rfl m n4
  | addcMI m n4 | subcMI m n4 => exact arithMI_alike hR h _ hcy m n4
  | orRM r m | andRM r m | xorRM r m => exact logicRM_alike hR h _ r m
  | orMI m n4 | andMI m n4 | xorMI m n4 => exact logicMI_alike hR h _ m n4
  | skt m n | skf m n => exact judge_alike hR h _ m n
  | ske m n4 | skne m n4 => exact compareSkip_alike hR h _ m n4
  | skge m n4 => exact compareSkip_alike hR h (fun v k => decide (k.toNat ≤ v.toNat)) m n4
  | sklt m n4 => exact compareSkip_alike hR h (fun v k => decide (v.toNat < k.toNat)) m n4
  | rorc r => exact execRorc_alike hR h r
  | ld r m => exact readThen_alike hR h fun v => writeReg_alike hR h r v
  | st m r => exact addressThen_alike hR h (readThen_alike hR h fun v => store_alike hR h m v)
  | mov m n4 => exact store_alike hR h m n4
  | br addr => exact execBr_alike hR h addr
  | call addr => exact execCall_alike hR h addr
  | ret => exact execRet_alike hR h
  | retsk => exact execRetsk_alike hR h
  | stop x => exact execStop_alike hR h x
  | halt x => exact execHalt_alike hR h x
  | nop => exact .next (advancePc_alike hR h)

end

theorem Alike.of_next {R : State → State → Prop} {o o' : Out} {t : State} (h : Alike R o o') (ht : o = .next t) :
    ∃ t', o' = .next t' ∧ R t t' := by
  subst ht
  cases h with
  | next hR => exact ⟨_, rfl, hR⟩

theorem Alike.of_fault {R : State → State → Prop} {o o' : Out} {f : Fault} (h : Alike R o o') (hf : o = .fault f) :
    o' = .fault f := by
  subst hf
  cases h
  rfl

/-! ## The latch of a port in input mode -/

/-- The states differ in the latches of ports in input mode at most. -/
def SameButInputLatches (s s' : State) : Prop :=
  ∃ vB vC vD, s' = { s with latchB := vB, latchC := vC, latchD := vD } ∧
    (s.modeB = .output → vB = s.latchB) ∧ (s.modeC = .output → vC = s.latchC) ∧ (s.modeD = .output → vD = s.latchD)

theorem openDrain_latch {mode : PortMode} {v w : BitVec 3} (h : mode = .output → v = w) (k : Nat) (pullUp : Bool) :
    openDrain mode (v.getLsbD k) pullUp = openDrain mode (w.getLsbD k) pullUp := by
  cases mode with
  | input => simp [openDrain]
  | output => rw [h rfl]

theorem pushPull_latch {mode : PortMode} {v w : Nibble} (h : mode = .output → v = w) (k : Nat) :
    pushPull mode (v.getLsbD k) = pushPull mode (w.getLsbD k) := by
  cases mode with
  | input => rfl
  | output => rw [h rfl]

/-- The chip drives each pin alike: a port in input mode drives nothing from its latch (R68, R69). -/
theorem chipDrive_of_sameButInputLatches {s s' : State} (h : SameButInputLatches s s') (p : Pin) :
    chipDrive s' p = chipDrive s p := by
  obtain ⟨vB, vC, vD, rfl, hB, hC, hD⟩ := h
  cases p with
  | p0b0 | p0b1 | p0b2 => exact openDrain_latch hB _ _
  | p0c0 | p0c1 | p0c2 | p0c3 => exact pushPull_latch hC _
  | p0d0 | p0d1 | p0d2 | p0d3 => exact pushPull_latch hD _

theorem pinLevel_of_sameButInputLatches {s s' : State} (h : SameButInputLatches s s') (p : Pin) :
    pinLevel s' p = pinLevel s p := by
  rw [pinLevel, pinLevel, chipDrive_of_sameButInputLatches h]
  obtain ⟨vB, vC, vD, rfl, -⟩ := h
  rfl

theorem dmRead_of_sameButInputLatches {s s' : State} (h : SameButInputLatches s s') (a : DAddr) :
    dmRead a s' = dmRead a s := by
  have hB : readPortB s' = readPortB s := by simp only [readPortB, pinLevel_of_sameButInputLatches h]
  have hC : readPortC s' = readPortC s := by simp only [readPortC, pinLevel_of_sameButInputLatches h]
  have hD : readPortD s' = readPortD s := by simp only [readPortD, pinLevel_of_sameButInputLatches h]
  unfold dmRead
  rw [hB, hC, hD]
  obtain ⟨vB, vC, vD, rfl, -⟩ := h
  rfl

theorem unobserved_sameButInputLatches : Unobserved SameButInputLatches where
  reads := dmRead_of_sameButInputLatches
  pins := pinLevel_of_sameButInputLatches
  flags := by rintro s _ ⟨_, _, _, rfl, -⟩; exact ⟨rfl, rfl, rfl, rfl⟩
  control := by rintro s _ ⟨_, _, _, rfl, -⟩; exact ⟨rfl, rfl, rfl, rfl, rfl⟩
  asr := by rintro s _ ⟨_, _, _, rfl, -⟩ _; rfl
  setPc := by rintro s _ ⟨vB, vC, vD, rfl, h⟩ _; exact ⟨vB, vC, vD, rfl, h⟩
  setFlags := by rintro s _ ⟨vB, vC, vD, rfl, h⟩ _ _ _ _; exact ⟨vB, vC, vD, rfl, h⟩
  setRam := by rintro s _ ⟨vB, vC, vD, rfl, h⟩ _ _; exact ⟨vB, vC, vD, rfl, h⟩
  drivePortB := by rintro s _ ⟨_, vC, vD, rfl, -, hC, hD⟩ v; exact ⟨v, vC, vD, rfl, fun _ => rfl, hC, hD⟩
  drivePortC := by rintro s _ ⟨vB, _, vD, rfl, hB, -, hD⟩ v; exact ⟨vB, v, vD, rfl, hB, fun _ => rfl, hD⟩
  drivePortD := by rintro s _ ⟨vB, vC, _, rfl, hB, hC, -⟩ v; exact ⟨vB, vC, v, rfl, hB, hC, fun _ => rfl⟩
  setSkip := by rintro s _ ⟨vB, vC, vD, rfl, h⟩ _; exact ⟨vB, vC, vD, rfl, h⟩
  setRun := by rintro s _ ⟨vB, vC, vD, rfl, h⟩ _; exact ⟨vB, vC, vD, rfl, h⟩
  setStack := by rintro s _ ⟨vB, vC, vD, rfl, h⟩ _ _; exact ⟨vB, vC, vD, rfl, h⟩
  initialise := by rintro s _ ⟨vB, vC, vD, rfl, -⟩; exact ⟨vB, vC, vD, rfl, nofun, nofun, nofun⟩

/-- Settles O43: pins and reads do not depend on the latch of a port in input mode, every update keeps that so, and a port
leaves input mode only by a write that sets its whole latch. -/
theorem latchOfAnInputPortIsUnobservable : Obligations.LatchOfAnInputPortIsUnobservable := by
  unfold Obligations.LatchOfAnInputPortIsUnobservable
  intro i s vB vC vD hB hC hD
  have halike := exec_alike unobserved_sameButInputLatches ⟨vB, vC, vD, rfl, hB, hC, hD⟩ i
  constructor
  · intro t ht
    obtain ⟨t', ht', wB, wC, wD, rfl, hw⟩ := halike.of_next ht
    exact ⟨wB, wC, wD, ht', hw⟩
  · exact fun f hf => halike.of_fault hf

/-! ## The ASR of an empty stack -/

/-- The states differ in ASR at most, and only while the stack is empty. -/
def SameButEmptyAsr (s s' : State) : Prop := ∃ v, s' = { s with asr := v } ∧ (s.depth = 1 → v = s.asr)

theorem depth_eq_one {d : Fin 2} (h : d ≠ 0) : d = 1 := by omega

theorem unobserved_sameButEmptyAsr : Unobserved SameButEmptyAsr where
  reads := by rintro s _ ⟨_, rfl, -⟩ _; rfl
  pins := by rintro s _ ⟨_, rfl, -⟩ p; cases p <;> rfl
  flags := by rintro s _ ⟨_, rfl, -⟩; exact ⟨rfl, rfl, rfl, rfl⟩
  control := by rintro s _ ⟨_, rfl, -⟩; exact ⟨rfl, rfl, rfl, rfl, rfl⟩
  asr := by rintro s _ ⟨_, rfl, h⟩ hd; exact h (depth_eq_one hd)
  setPc := by rintro s _ ⟨v, rfl, h⟩ _; exact ⟨v, rfl, h⟩
  setFlags := by rintro s _ ⟨v, rfl, h⟩ _ _ _ _; exact ⟨v, rfl, h⟩
  setRam := by rintro s _ ⟨v, rfl, h⟩ _ _; exact ⟨v, rfl, h⟩
  drivePortB := by rintro s _ ⟨v, rfl, h⟩ _; exact ⟨v, rfl, h⟩
  drivePortC := by rintro s _ ⟨v, rfl, h⟩ _; exact ⟨v, rfl, h⟩
  drivePortD := by rintro s _ ⟨v, rfl, h⟩ _; exact ⟨v, rfl, h⟩
  setSkip := by rintro s _ ⟨v, rfl, h⟩ _; exact ⟨v, rfl, h⟩
  setRun := by rintro s _ ⟨v, rfl, h⟩ _; exact ⟨v, rfl, h⟩
  setStack := by rintro s _ ⟨_, rfl, -⟩ a _; exact ⟨a, rfl, fun _ => rfl⟩
  initialise := by rintro s _ ⟨_, rfl, -⟩; exact ⟨_, rfl, fun _ => rfl⟩

/-- Settles O44: ASR is read only with a return address on the stack, which CALL puts there. -/
theorem asrOfAnEmptyStackIsUnobservable : Obligations.AsrOfAnEmptyStackIsUnobservable := by
  unfold Obligations.AsrOfAnEmptyStackIsUnobservable
  intro i s v hd
  have halike := exec_alike unobserved_sameButEmptyAsr ⟨v, rfl, fun h1 => by rw [hd] at h1; cases h1⟩ i
  constructor
  · intro t ht
    obtain ⟨t', ht', w, rfl, hw⟩ := halike.of_next ht
    exact ⟨w, ht', hw⟩
  · exact fun f hf => halike.of_fault hf

end Sys2Proof.Proofs
end

section
/-! PROOF. What each instruction does when its operands can be read (spec/40_add_sub.md to spec/45_other.md): the exact next
state, form by form. -/

namespace Sys2Proof.Proofs

open Sys2Proof.Machine Sys2Proof.Claims

/-! ## Addition and subtraction -/

theorem aluAdd_eq_sumBy (bcd : Bool) (a b : Nibble) (c : Bool) :
    aluAdd bcd a b c = ⟨(sumBy bcd (a.toNat + b.toNat + c.toNat)).1, (sumBy bcd (a.toNat + b.toNat + c.toNat)).2⟩ := by
  cases bcd with
  | false => rfl
  | true => exact aluAdd_decimal a b c

theorem aluSub_eq_diffBy (bcd : Bool) (a b : Nibble) (c : Bool) :
    aluSub bcd a b c =
      ⟨(diffBy bcd ((a.toNat : Int) - b.toNat - c.toNat)).1, (diffBy bcd ((a.toNat : Int) - b.toNat - c.toNat)).2⟩ := by
  cases bcd with
  | false => rfl
  | true => exact aluSub_decimal a b c

theorem zAfter_eq_zRule (res : Nibble) (cmp z : Bool) : zAfter res cmp z = zRule res cmp z := by
  unfold zAfter zRule
  by_cases h : res = 0 <;> cases cmp <;> simp [h]

/-- The flags that ARITH_COMMIT sets (R134). -/
theorem setFlags_eq_afterArith (s : State) (o : Bool × Nibble) :
    s.setFlags s.bcd s.cmp o.1 (zAfter o.2 s.cmp s.z) = afterArith s o := by
  rw [zAfter_eq_zRule]
  rfl

theorem arithCommit_eq (dest : DAddr) (o : Bool × Nibble) (s : State) :
    arithCommit dest ⟨o.1, o.2⟩ s = if s.cmp then .ok (afterArith s o) else dmWrite dest o.2 (afterArith s o) := by
  rw [arithCommit, setFlags_eq_afterArith]

theorem accessible_afterArith (m : DAddr) (o : Bool × Nibble) (s : State) :
    accessible m (afterArith s o) = accessible m s := rfl

/-- The `r, m` form, with the outcome of the ALU written as a pair. -/
theorem arithRM_of_reads {alu : Bool → Nibble → Nibble → Bool → AluOut} {c : Bool} {r : Nibble} {m : DAddr} {s : State}
    {a b : Nibble} {o : Bool × Nibble} (ha : dmRead (regAddr r) s = .ok a) (hb : dmRead m s = .ok b)
    (ho : alu s.bcd a b c = ⟨o.1, o.2⟩) : arithRM alu c r m s =
      .next { (if s.cmp then afterArith s o else withReg r o.2 (afterArith s o)) with pc := s.pc + 1 } := by
  rw [arithRM, readBoth_of_reads _ ha hb, ho, arithCommit_eq, dmWrite_regAddr]
  cases s.cmp <;> rfl

/-- The `m, #n4` form, with the outcome of the ALU written as a pair. -/
theorem arithMI_of_read {alu : Bool → Nibble → Nibble → Bool → AluOut} {c : Bool} {m : DAddr} {n4 : Nibble} {s : State}
    {a : Nibble} {o : Bool × Nibble} (ha : dmRead m s = .ok a) (ho : alu s.bcd a n4 c = ⟨o.1, o.2⟩) :
    (s.cmp = true → arithMI alu c m n4 s = .next { afterArith s o with pc := s.pc + 1 }) ∧
    (s.cmp = false → ∃ t, StoreEffect m o.2 (afterArith s o) t ∧
      arithMI alu c m n4 s = .next { t with pc := s.pc + 1 }) := by
  rw [arithMI, readThen_of_read _ ha, ho, arithCommit_eq]
  constructor
  · intro hc
    rw [if_pos hc]
    rfl
  · intro hc
    obtain ⟨t, heffect, ht⟩ := store_of_accessible (s := afterArith s o) o.2
      ((accessible_afterArith m o s).trans (accessible_of_dmRead ha))
    refine ⟨t, heffect, ?_⟩
    rw [if_neg (by simp [hc]), ht, thenAdvance_ok, State.advancePc, (storeFrame_of_dmWrite ht).pc]
    rfl

theorem aluAdd_false_eq (bcd : Bool) (a b : Nibble) :
    aluAdd bcd a b false = ⟨(sumBy bcd (a.toNat + b.toNat)).1, (sumBy bcd (a.toNat + b.toNat)).2⟩ :=
  aluAdd_eq_sumBy bcd a b false

theorem aluSub_false_eq (bcd : Bool) (a b : Nibble) :
    aluSub bcd a b false = ⟨(diffBy bcd ((a.toNat : Int) - b.toNat)).1, (diffBy bcd ((a.toNat : Int) - b.toNat)).2⟩ := by
  simpa using aluSub_eq_diffBy bcd a b false

/-- Settles O15: the four `r, m` forms differ in the operation of the ALU and the carry in. -/
theorem arithmeticRegisterForms : Obligations.ArithmeticRegisterForms := by
  unfold Obligations.ArithmeticRegisterForms
  intro r m s a b ha hb p hp
  simp only [List.mem_cons, List.not_mem_nil, or_false] at hp
  rcases hp with rfl | rfl | rfl | rfl
  · exact arithRM_of_reads ha hb (aluAdd_false_eq s.bcd a b)
  · exact arithRM_of_reads ha hb (aluAdd_eq_sumBy s.bcd a b s.cy)
  · exact arithRM_of_reads ha hb (aluSub_false_eq s.bcd a b)
  · exact arithRM_of_reads ha hb (aluSub_eq_diffBy s.bcd a b s.cy)

/-- Settles O16: the four `m, #n4` forms likewise. -/
theorem arithmeticMemoryForms : Obligations.ArithmeticMemoryForms := by
  unfold Obligations.ArithmeticMemoryForms
  intro m n4 s a ha p hp
  simp only [List.mem_cons, List.not_mem_nil, or_false] at hp
  rcases hp with rfl | rfl | rfl | rfl
  · exact arithMI_of_read ha (aluAdd_false_eq s.bcd a n4)
  · exact arithMI_of_read ha (aluAdd_eq_sumBy s.bcd a n4 s.cy)
  · exact arithMI_of_read ha (aluSub_false_eq s.bcd a n4)
  · exact arithMI_of_read ha (aluSub_eq_diffBy s.bcd a n4 s.cy)

/-- Settles O17: the memory form with 7FH as its operand, where the store writes CMP, CY and Z over the flags of the
outcome. -/
theorem arithmeticOnThePsw : Obligations.ArithmeticOnThePsw := by
  unfold Obligations.ArithmeticOnThePsw
  constructor
  · intro n4 s t a ha p hp ht
    obtain ⟨hkeep, hstore⟩ := arithmeticMemoryForms 0x7F n4 s a ha p hp
    constructor
    · intro hc
      obtain ⟨u, ⟨-, -, -, -, -, -, -, hpsw⟩, hu⟩ := hstore hc
      rw [hu, hpsw rfl] at ht
      cases ht
      exact ⟨rfl, rfl, rfl⟩
    · intro hc
      rw [hkeep hc] at ht
      cases ht
      exact ⟨hc, rfl, by rw [← hc]; rfl⟩
  · decide

/-! ## Logic, rotation and transfer -/

theorem logicRM_of_reads (f : Nibble → Nibble → Nibble) {r : Nibble} {m : DAddr} {s : State} {a b : Nibble}
    (ha : dmRead (regAddr r) s = .ok a) (hb : dmRead m s = .ok b) :
    logicRM f r m s = .next { withReg r (f a b) s with pc := s.pc + 1 } := by
  rw [logicRM, readBoth_of_reads _ ha hb]
  rfl

/-- A store to an accessible address and the next instruction: `StoreEffect` and the next pc. -/
theorem thenAdvance_dmWrite {m : DAddr} {s : State} (v : Nibble) (h : accessible m s = true) :
    ∃ t, StoreEffect m v s t ∧ thenAdvance (dmWrite m v s) = .next { t with pc := s.pc + 1 } := by
  obtain ⟨t, heffect, ht⟩ := store_of_accessible v h
  refine ⟨t, heffect, ?_⟩
  rw [ht, thenAdvance_ok, State.advancePc, (storeFrame_of_dmWrite ht).pc]
  rfl

theorem logicMI_of_read (f : Nibble → Nibble → Nibble) {m : DAddr} (n4 : Nibble) {s : State} {a : Nibble}
    (ha : dmRead m s = .ok a) :
    ∃ t, StoreEffect m (f a n4) s t ∧ logicMI f m n4 s = .next { t with pc := s.pc + 1 } := by
  rw [logicMI, readThen_of_read _ ha]
  exact thenAdvance_dmWrite (f a n4) (accessible_of_dmRead ha)

/-- Settles O18: the bits of the bitwise operations are those of the truth table. -/
theorem logicRegisterForms : Obligations.LogicRegisterForms := by
  unfold Obligations.LogicRegisterForms
  intro r m s a b ha hb p hp
  simp only [List.mem_cons, List.not_mem_nil, or_false] at hp
  rcases hp with rfl | rfl | rfl
  · exact ⟨a ||| b, fun k _ => BitVec.getLsbD_or, logicRM_of_reads _ ha hb⟩
  · exact ⟨a &&& b, fun k _ => BitVec.getLsbD_and, logicRM_of_reads _ ha hb⟩
  · exact ⟨a ^^^ b, fun k _ => BitVec.getLsbD_xor, logicRM_of_reads _ ha hb⟩

/-- Settles O19 likewise, with the store to `m`. -/
theorem logicMemoryForms : Obligations.LogicMemoryForms := by
  unfold Obligations.LogicMemoryForms
  intro m n4 s a ha p hp
  simp only [List.mem_cons, List.not_mem_nil, or_false] at hp
  rcases hp with rfl | rfl | rfl
  · obtain ⟨t, heffect, ht⟩ := logicMI_of_read (· ||| ·) n4 ha
    exact ⟨a ||| n4, t, fun k _ => BitVec.getLsbD_or, heffect, ht⟩
  · obtain ⟨t, heffect, ht⟩ := logicMI_of_read (· &&& ·) n4 ha
    exact ⟨a &&& n4, t, fun k _ => BitVec.getLsbD_and, heffect, ht⟩
  · obtain ⟨t, heffect, ht⟩ := logicMI_of_read (· ^^^ ·) n4 ha
    exact ⟨a ^^^ n4, t, fun k _ => BitVec.getLsbD_xor, heffect, ht⟩

/-- Settles O20: LD reads `m` only, ST the register only, MOV nothing. -/
theorem transfers : Obligations.Transfers := by
  unfold Obligations.Transfers
  refine ⟨fun r m s v hv => ?_, fun m r s v hm hv => ?_, fun m n4 s hm => ?_⟩
  · exact readThen_of_read _ hv
  · obtain ⟨t, heffect, ht⟩ := thenAdvance_dmWrite v hm
    refine ⟨t, heffect, ?_⟩
    rw [← ht]
    exact (addressThen_of_accessible _ hm).trans (readThen_of_read _ hv)
  · exact thenAdvance_dmWrite n4 hm

theorem rotateRight_bits (cy : Bool) (v : Nibble) :
    (rotateRight cy v).getLsbD 3 = cy ∧ (rotateRight cy v).getLsbD 2 = v.getLsbD 3 ∧
    (rotateRight cy v).getLsbD 1 = v.getLsbD 2 ∧ (rotateRight cy v).getLsbD 0 = v.getLsbD 1 := by
  revert cy v
  decide

/-- Settles O21: the result is `rotateRight`, whose bits are the old ones one place to the right. -/
theorem rotateRightThroughCarry : Obligations.RotateRightThroughCarry := by
  unfold Obligations.RotateRightThroughCarry
  intro r s a ha
  obtain ⟨h3, h2, h1, h0⟩ := rotateRight_bits s.cy a
  exact ⟨rotateRight s.cy a, h3, h2, h1, h0, readThen_of_read _ ha⟩

/-! ## Judgement and comparison -/

theorem allSet_eq (v n : Nibble) :
    allSet v n = decide (∀ k : Fin 4, n.getLsbD k = true → v.getLsbD k = true) := by
  revert v n
  decide

theorem allClear_eq (v n : Nibble) :
    allClear v n = decide (∀ k : Fin 4, n.getLsbD k = true → v.getLsbD k = false) := by
  revert v n
  decide

theorem skipIf_eq (b : Bool) (s : State) :
    skipIf b s = .next { s with pc := s.pc + 1, skipPending := s.skipPending || b } := by
  rw [skipIf, Bool.or_comm]
  rfl

theorem judge_of_tested {test : Nibble → Nibble → Bool} {m : DAddr} {n v u : Nibble} {s : State}
    (hv : dmRead m s = .ok v) (hu : testedNibble m n v s = .ok u) :
    judge test m n s = .next { s with cmp := false, pc := s.pc + 1, skipPending := s.skipPending || test u n } := by
  rw [judge, readThen_of_read _ hv, hu]
  exact skipIf_eq (test u n) _

theorem testsCmp_eq_false {m : DAddr} {n : Nibble} (h : ¬ (m = 0x7F ∧ n.getLsbD 3 = true)) : testsCmp m n = false := by
  simpa [testsCmp] using h

theorem testedNibble_of_other {m : DAddr} {n v : Nibble} {s : State} (h : ¬ (m = 0x7F ∧ n.getLsbD 3 = true)) :
    testedNibble m n v s = .ok v := by
  rw [testedNibble, testsCmp_eq_false h]
  rfl

/-- Settles O22: off the CMP bit the nibble tested is the one that memory reads. -/
theorem bitJudgement : Obligations.BitJudgement := by
  unfold Obligations.BitJudgement
  intro m n s v hv hother
  rw [← allSet_eq, ← allClear_eq]
  exact ⟨judge_of_tested hv (testedNibble_of_other hother), judge_of_tested hv (testedNibble_of_other hother)⟩

/-- SKT on the PSW with CMP = `c` under a mask that selects CMP. -/
theorem allSet_psw_iff {n : Nibble} (h : n.getLsbD 3 = true) (c cy z : Bool) :
    allSet (nibbleOf c cy z false) n = true ↔ c = true ∧ (n.getLsbD 2 = true → cy = true) ∧
      (n.getLsbD 1 = true → z = true) ∧ (n.getLsbD 0 = true → true = false) := by
  revert n c cy z
  decide

/-- SKF on the PSW with CMP = `c` under a mask that selects CMP. -/
theorem allClear_psw_iff {n : Nibble} (h : n.getLsbD 3 = true) (c cy z : Bool) :
    allClear (nibbleOf c cy z false) n = true ↔ c = false ∧ (n.getLsbD 2 = true → cy = false) ∧
      (n.getLsbD 1 = true → z = false) ∧ (n.getLsbD 0 = true → false = false) := by
  revert n c cy z
  decide

theorem withoutCmp_nibbleOf (c cy z : Bool) : withoutCmp (nibbleOf c cy z false) = nibbleOf false cy z false := by
  revert c cy z
  decide

theorem testsCmp_of_mask {n : Nibble} (h : n.getLsbD 3 = true) : testsCmp 0x7F n = true := by
  simpa [testsCmp] using h

/-- What SKT and SKF test on the CMP bit: the PSW with the old CMP, or with CMP = 0, as the order says (R163). -/
theorem testedNibble_cmp {n : Nibble} (hn : n.getLsbD 3 = true) (s : State) :
    testedNibble 0x7F n (pswNibble s) s = match s.params.sktCmpOrder with
      | .readThenClear => .ok (nibbleOf s.cmp s.cy s.z false)
      | .clearThenRead => .ok (nibbleOf false s.cy s.z false)
      | .fault => .error (.unspecifiedCmpTest s.pc)
      | .either => .ok (if !s.cmp || Config.sktReadsOldCmp then nibbleOf s.cmp s.cy s.z false
          else nibbleOf false s.cy s.z false) := by
  rw [testedNibble, if_pos (testsCmp_of_mask hn)]
  cases s.params.sktCmpOrder <;> simp [pswNibble, withoutCmp_nibbleOf]

theorem dmRead_7F (s : State) : dmRead 0x7F s = .ok (pswNibble s) := rfl

/-- What R163 says of SKT (`target` = 1) and SKF (`target` = 0) on the CMP bit itself, for the outcome `o` of one of them. -/
def CmpBitJudged (n : Nibble) (s : State) (target : Bool) (o : Out) : Prop :=
  let skips := fun cmp : Bool => cmp = target ∧ (n.getLsbD 2 = true → s.cy = target) ∧
    (n.getLsbD 1 = true → s.z = target) ∧ (n.getLsbD 0 = true → target = false)
  let after := fun b : Bool => { s with cmp := false, pc := s.pc + 1, skipPending := s.skipPending || b }
  (s.params.sktCmpOrder = .readThenClear → ∃ b, (b = true ↔ skips s.cmp) ∧ o = .next (after b)) ∧
  (s.params.sktCmpOrder = .clearThenRead → ∃ b, (b = true ↔ skips false) ∧ o = .next (after b)) ∧
  (s.params.sktCmpOrder = .fault → o = .fault (.unspecifiedCmpTest s.pc)) ∧
  (s.params.sktCmpOrder = .either →
    ∃ b, ((b = true ↔ skips s.cmp) ∨ (b = true ↔ skips false)) ∧ o = .next (after b))

theorem judge_cmpBit {test : Nibble → Nibble → Bool} {target : Bool} {n : Nibble} (hn : n.getLsbD 3 = true)
    (htest : ∀ c cy z, test (nibbleOf c cy z false) n = true ↔ c = target ∧ (n.getLsbD 2 = true → cy = target) ∧
      (n.getLsbD 1 = true → z = target) ∧ (n.getLsbD 0 = true → target = false)) (s : State) :
    CmpBitJudged n s target (judge test 0x7F n s) := by
  have hu := testedNibble_cmp hn s
  refine ⟨fun ho => ?_, fun ho => ?_, fun ho => ?_, fun ho => ?_⟩ <;> rw [ho] at hu
  · exact ⟨_, htest _ _ _, judge_of_tested (dmRead_7F s) hu⟩
  · exact ⟨_, htest _ _ _, judge_of_tested (dmRead_7F s) hu⟩
  · rw [judge, readThen_of_read _ (dmRead_7F s), hu]
  · refine ⟨_, ?_, judge_of_tested (dmRead_7F s) hu⟩
    split
    · exact .inl (htest _ _ _)
    · exact .inr (htest _ _ _)

/-- Settles O23: on the CMP bit the nibble tested is the PSW with the old CMP or with CMP = 0. -/
theorem bitJudgementOfTheCmpBit : Obligations.BitJudgementOfTheCmpBit := by
  unfold Obligations.BitJudgementOfTheCmpBit
  intro n s hn p hp
  simp only [List.mem_cons, List.not_mem_nil, or_false] at hp
  rcases hp with rfl | rfl
  · exact judge_cmpBit hn (allSet_psw_iff hn) s
  · exact judge_cmpBit hn (allClear_psw_iff hn) s

theorem compareSkip_of_read {test : Nibble → Nibble → Bool} {m : DAddr} {n4 v : Nibble} {s : State} {b : Bool}
    (hv : dmRead m s = .ok v) (hb : test v n4 = b) :
    compareSkip test m n4 s = .next { s with skipPending := s.skipPending || b, pc := s.pc + 1 } := by
  rw [compareSkip, readThen_of_read _ hv, hb]
  exact skipIf_eq b s

theorem beq_eq_decide_sub (v n : Nibble) : (v == n) = decide ((v.toNat : Int) - n.toNat = 0) := by
  rw [Bool.eq_iff_iff, beq_iff_eq, decide_eq_true_iff, BitVec.toNat_inj.symm]
  omega

/-- Settles O24: each test on nibbles is one on the sign of the difference of their values. -/
theorem comparison : Obligations.Comparison := by
  unfold Obligations.Comparison
  intro m n4 s v hv p hp
  simp only [List.mem_cons, List.not_mem_nil, or_false] at hp
  rcases hp with rfl | rfl | rfl | rfl
  · exact compareSkip_of_read hv (beq_eq_decide_sub v n4)
  · refine compareSkip_of_read hv ?_
    rw [bne, beq_eq_decide_sub, decide_not]
  · exact compareSkip_of_read (test := fun v k => decide (k.toNat ≤ v.toNat)) hv (decide_eq_decide.2 (by omega))
  · exact compareSkip_of_read (test := fun v k => decide (v.toNat < k.toNat)) hv (decide_eq_decide.2 (by omega))

/-! ## Control transfer -/

theorem addrOk_iff (addr : BitVec 11) : addrOk addr = true ↔ addr.toNat < 512 := by
  rw [addrOk, beq_iff_eq, ← BitVec.toNat_inj, BitVec.extractLsb'_toNat, Nat.shiftRight_eq_div_pow,
    show (0 : BitVec 2).toNat = 0 from rfl]
  have := addr.isLt
  omega

theorem targetOf_eq (addr : BitVec 11) : targetOf addr = BitVec.ofNat 9 addr.toNat := by
  apply BitVec.eq_of_toNat_eq
  rw [targetOf, BitVec.extractLsb'_toNat, BitVec.toNat_ofNat, Nat.shiftRight_zero]

/-- Settles O25: an address below 512 passes the test of its fixed bits, and its lower nine bits are its value. -/
theorem branchAndCall : Obligations.BranchAndCall := by
  unfold Obligations.BranchAndCall
  intro addr s haddr
  rw [← targetOf_eq]
  refine ⟨if_pos ((addrOk_iff addr).2 haddr), fun hd => ?_⟩
  exact (if_pos ((addrOk_iff addr).2 haddr)).trans (if_neg (by simp [hd]))

theorem popReturn_of_depth {s : State} (h : s.depth = 1) : popReturn s = .ok ((s.setStack s.asr 0).setPc s.asr) :=
  if_neg (by simp [h])

/-- Settles O26: with a return address on the stack `popReturn` succeeds. -/
theorem returns : Obligations.Returns := by
  unfold Obligations.Returns
  intro s hd
  constructor
  · show execRet s = _
    rw [execRet, popReturn_of_depth hd]
    rfl
  · show execRetsk s = _
    rw [execRetsk, popReturn_of_depth hd]
    rfl

/-- Settles O27: CALL completes from depth 0 only and leaves the address behind it in ASR, from where the return takes it. -/
theorem returnGoesBehindTheCall : Obligations.ReturnGoesBehindTheCall := by
  unfold Obligations.ReturnGoesBehindTheCall
  intro addr s t u v hcall hasr _
  obtain ⟨-, hd, rfl⟩ := execCall_next hcall
  have hdepth : (0 : Fin 2) = s.depth := by omega
  constructor
  · intro hret
    obtain ⟨-, rfl⟩ := execRet_next hret
    exact ⟨hasr, hdepth, rfl⟩
  · intro hret
    obtain ⟨-, rfl⟩ := execRetsk_next hret
    exact ⟨hasr, hdepth, rfl⟩

/-! ## NOP, HALT and STOP -/

theorem execHalt_one (s : State) : execHalt 1 s =
    .next (s.advancePc.setRun (if pinLevel s .p0b0 then s.run else .halt true)) := rfl

theorem execStop_one (s : State) : execStop 1 s =
    .next (s.advancePc.setRun (if pinLevel s .p0b1 then s.run else .stop true)) := rfl

/-- Settles O28: the pin decides between standby and NOP; STOP 0000B ends in the initialised state with its data kept. -/
theorem nopHaltStop : Obligations.NopHaltStop := by
  unfold Obligations.NopHaltStop
  intro s
  refine ⟨rfl, rfl, fun h => ?_, fun h => ?_, fun h => ?_, fun h => ?_, enterStopReset s, rfl,
    initialised_enterStopReset s, rfl, rfl, rfl, rfl, rfl, rfl, ⟨rfl, rfl, rfl, rfl, rfl⟩, fun q => ?_⟩
  · exact (execHalt_one s).trans (by rw [h]; rfl)
  · exact (execHalt_one s).trans (by rw [h]; rfl)
  · exact (execStop_one s).trans (by rw [h]; rfl)
  · exact (execStop_one s).trans (by rw [h]; rfl)
  · rw [dmRead_regAddr, dmRead_regAddr]
    rfl

end Sys2Proof.Proofs
end

section
/-! PROOF. Where instructions stop: the model faults of spec/60_exceptions.md R222, and that everywhere else an instruction
completes. -/

namespace Sys2Proof.Proofs

open Sys2Proof.Machine Sys2Proof.Claims

/-! ## Operands that are not mapped -/

/-- Every instruction with an operand `m` checks its address before anything else (R65, R222). -/
theorem exec_of_not_accessible {i : Instr} {m : DAddr} {s : State} (hi : operandAddr i = some m)
    (h : accessible m s = false) : exec i s = .fault (.unmappedDataMemory m) := by
  cases i with
  | rorc r | br addr | call addr | ret | retsk | stop x | halt x | nop => cases hi
  | mov a n4 =>
    cases hi
    show thenAdvance (dmWrite m n4 s) = _
    rw [dmWrite_of_not_accessible n4 h]
    rfl
  | addRM r a | addcRM r a | subRM r a | subcRM r a | orRM r a | andRM r a | xorRM r a | st a r =>
    cases hi
    exact addressThen_of_not_accessible _ h
  | addMI a n4 | addcMI a n4 | subMI a n4 | subcMI a n4 | orMI a n4 | andMI a n4 | xorMI a n4 | skt a n | skf a n
    | ske a n4 | skne a n4 | skge a n4 | sklt a n4 | ld r a =>
    cases hi
    exact readThen_of_not_accessible _ h

/-- Settles O30: 10H-70H are the addresses that are not accessible under UNMAPPED_DM = fault. -/
theorem unmappedOperandFaults : Obligations.UnmappedOperandFaults := by
  unfold Obligations.UnmappedOperandFaults
  intro i m s hi hlo hhi hp
  exact exec_of_not_accessible hi ((not_accessible_iff m s).2 ⟨hlo, hhi, hp⟩)

/-! ## Operands that nothing has written -/

theorem readThen_of_unwritten {a b : DAddr} {s : State} (k : Nibble → Out) (hp : s.params.undefinedRead = .fault)
    (h : [a].find? (unwritten s) = some b) : readThen a s k = .fault (.undefinedRead b) := by
  obtain ⟨hu, rfl⟩ : unwritten s b = true ∧ a = b := by
    rw [List.find?_singleton] at h
    split at h
    case isTrue hu => cases h; exact ⟨hu, rfl⟩
    case isFalse => cases h
  rw [readThen, dmRead_of_unwritten hp hu]

theorem readBoth_of_unwritten {r : Nibble} {m b : DAddr} {s : State} (k : Nibble → Nibble → Out)
    (hp : s.params.undefinedRead = .fault) (hm : accessible m s = true)
    (h : [regAddr r, m].find? (unwritten s) = some b) : readBoth r m s k = .fault (.undefinedRead b) := by
  rw [readBoth, addressThen_of_accessible _ hm, readRegThen]
  by_cases hr : unwritten s (regAddr r) = true
  · rw [List.find?_cons_of_pos hr] at h
    cases h
    exact readThen_of_unwritten _ hp (by simp [hr])
  · rw [List.find?_cons_of_neg hr] at h
    obtain ⟨a, ha⟩ := dmRead_ok_of_accessible (accessible_regAddr r s) fun hn => hr hn.2
    rw [readThen_of_read _ ha]
    exact readThen_of_unwritten _ hp h

/-- The first operand that an instruction reads and that nothing has written is reported (R26, R222). -/
theorem exec_of_unwritten {i : Instr} {a : DAddr} {s : State} (hp : s.params.undefinedRead = .fault)
    (ha : (readAddrs i).find? (unwritten s) = some a) (hacc : ∀ m, operandAddr i = some m → accessible m s = true) :
    exec i s = .fault (.undefinedRead a) := by
  cases i with
  | mov m n4 | br addr | call addr | ret | retsk | stop x | halt x | nop => cases ha
  | addRM r m | addcRM r m | subRM r m | subcRM r m | orRM r m | andRM r m | xorRM r m =>
    exact readBoth_of_unwritten _ hp (hacc m rfl) ha
  | st m r => exact (addressThen_of_accessible _ (hacc m rfl)).trans (readThen_of_unwritten _ hp ha)
  | rorc r => exact readThen_of_unwritten _ hp ha
  | addMI m n4 | addcMI m n4 | subMI m n4 | subcMI m n4 | orMI m n4 | andMI m n4 | xorMI m n4 | skt m n | skf m n
    | ske m n4 | skne m n4 | skge m n4 | sklt m n4 | ld r m => exact readThen_of_unwritten _ hp ha

/-! ## The stack and the fixed operand bits -/

theorem execCall_of_full {addr : BitVec 11} {s : State} (haddr : addrOk addr = true) (hd : s.depth = 1) :
    exec (.call addr) s = .fault (.stackOverflow s.pc) := (if_pos haddr).trans (if_pos hd)

theorem popReturn_of_empty {s : State} (hd : s.depth = 0) : popReturn s = .error (.stackUnderflow s.pc) := if_pos hd

theorem execRet_of_empty {s : State} (hd : s.depth = 0) : exec .ret s = .fault (.stackUnderflow s.pc) := by
  show execRet s = _
  rw [execRet, popReturn_of_empty hd]

theorem execRetsk_of_empty {s : State} (hd : s.depth = 0) : exec .retsk s = .fault (.stackUnderflow s.pc) := by
  show execRetsk s = _
  rw [execRetsk, popReturn_of_empty hd]

/-- Operand bits that must be 0 and are not (R109, R110). -/
theorem exec_of_not_wf {i : Instr} {s : State} (h : i.wf = false) :
    exec i s = .fault (.illegalEncoding s.pc (some (encode i))) := by
  cases i with
  | br addr | call addr | stop x | halt x => exact if_neg (ne_true_of_eq_false h)
  | _ => cases h

theorem standbyOk_eq_false {x : Nibble} (h : 2 ≤ x.toNat) : standbyOk x = false := by
  revert x
  decide

/-- Settles O29: each fault by the operation that raises it. -/
theorem stackAndOperandFaults : Obligations.StackAndOperandFaults := by
  unfold Obligations.StackAndOperandFaults
  intro s
  refine ⟨fun hp i a ha hacc => exec_of_unwritten hp ha hacc, fun hd addr haddr => ?_,
    fun hd => ⟨execRet_of_empty hd, execRetsk_of_empty hd⟩, fun addr haddr i hi => ?_, fun x hx i hi => ?_⟩
  · exact execCall_of_full ((addrOk_iff addr).2 haddr) hd
  · have hbits : addrOk addr = false := by
      rw [← Bool.not_eq_true, addrOk_iff]
      omega
    simp only [List.mem_cons, List.not_mem_nil, or_false] at hi
    rcases hi with rfl | rfl <;> exact exec_of_not_wf hbits
  · simp only [List.mem_cons, List.not_mem_nil, or_false] at hi
    rcases hi with rfl | rfl <;> exact exec_of_not_wf (standbyOk_eq_false hx)

/-! ## Everywhere else an instruction completes -/

/-- What an instruction reads is a general register or its operand `m`. -/
theorem mem_readAddrs {i : Instr} {a : DAddr} (h : a ∈ readAddrs i) :
    (∃ r, a = regAddr r) ∨ operandAddr i = some a := by
  cases i with
  | mov m n4 | br addr | call addr | ret | retsk | stop x | halt x | nop => cases h
  | addRM r m | addcRM r m | subRM r m | subcRM r m | orRM r m | andRM r m | xorRM r m =>
    rcases List.mem_cons.1 h with rfl | h
    · exact .inl ⟨r, rfl⟩
    · exact .inr (congrArg some (List.mem_singleton.1 h).symm)
  | st m r | rorc r => exact .inl ⟨r, List.mem_singleton.1 h⟩
  | addMI m n4 | addcMI m n4 | subMI m n4 | subcMI m n4 | orMI m n4 | andMI m n4 | xorMI m n4 | skt m n | skf m n
    | ske m n4 | skne m n4 | skge m n4 | sklt m n4 | ld r m => exact .inr (congrArg some (List.mem_singleton.1 h).symm)

/-- `SKT_CMP_ORDER` = `fault` and the operand is the CMP bit itself (R163). -/
def CmpTestFaults (m : DAddr) (n : Nibble) (s : State) : Prop :=
  m = 0x7F ∧ n.getLsbD 3 = true ∧ s.params.sktCmpOrder = .fault

theorem testedNibble_ok {m : DAddr} {n : Nibble} {s : State} (v : Nibble) (h : ¬ CmpTestFaults m n s) :
    ∃ u, testedNibble m n v s = .ok u := by
  unfold testedNibble
  split
  case isFalse => exact ⟨v, rfl⟩
  case isTrue ht =>
    cases ho : s.params.sktCmpOrder with
    | fault =>
      obtain ⟨hm, hn⟩ : m = 0x7F ∧ n.getLsbD 3 = true := by simpa [testsCmp] using ht
      exact absurd ⟨hm, hn, ho⟩ h
    | readThenClear | clearThenRead | either => exact ⟨_, rfl⟩

theorem judge_completes {test : Nibble → Nibble → Bool} {m : DAddr} {n v : Nibble} {s : State} (hv : dmRead m s = .ok v)
    (h : ¬ CmpTestFaults m n s) : ∃ t, judge test m n s = .next t := by
  obtain ⟨u, hu⟩ := testedNibble_ok v h
  exact ⟨_, judge_of_tested hv hu⟩

theorem judge_of_cmpTestFaults {test : Nibble → Nibble → Bool} {m : DAddr} {n : Nibble} {s : State}
    (h : CmpTestFaults m n s) : judge test m n s = .fault (.unspecifiedCmpTest s.pc) := by
  obtain ⟨rfl, hn, ho⟩ := h
  have hu := testedNibble_cmp hn s
  rw [ho] at hu
  rw [judge, readThen_of_read _ (dmRead_7F s), hu]

/-- The faults of an instruction that are not of its data-memory operands. -/
def OwnFault (i : Instr) (s : State) : Prop :=
  ((∃ addr, i = .call addr) ∧ s.depth = 1) ∨ ((i = .ret ∨ i = .retsk) ∧ s.depth = 0) ∨
  ∃ n : Nibble, (i = .skt 0x7F n ∨ i = .skf 0x7F n) ∧ n.getLsbD 3 = true ∧ s.params.sktCmpOrder = .fault

/-- An instruction completes if its operand address is accessible, its reads answer, its fixed bits are 0 and it has no
fault of its own. -/
theorem exec_completes {i : Instr} {s : State} (hwf : i.wf = true)
    (hacc : ∀ m, operandAddr i = some m → accessible m s = true) (hreads : ∀ a ∈ readAddrs i, ∃ v, dmRead a s = .ok v) (hown : ¬ OwnFault i s) : ∃ t, exec i s = .next t := by
  obtain ⟨hcall, hret, hcmp⟩ : ¬ ((∃ addr, i = .call addr) ∧ s.depth = 1) ∧ ¬ ((i = .ret ∨ i = .retsk) ∧ s.depth = 0) ∧
      ¬ ∃ n : Nibble, (i = .skt 0x7F n ∨ i = .skf 0x7F n) ∧ n.getLsbD 3 = true ∧ s.params.sktCmpOrder = .fault := by
    simpa only [OwnFault, not_or] using hown
  cases i with
  | addRM r m | addcRM r m | subRM r m | subcRM r m =>
    obtain ⟨a, ha⟩ := hreads (regAddr r) (by simp [readAddrs])
    obtain ⟨b, hb⟩ := hreads m (by simp [readAddrs])
    show ∃ t, readBoth r m s _ = .next t
    rw [readBoth_of_reads _ ha hb]
    exact arithCommit_completes _ (accessible_regAddr r s)
  | orRM r m | andRM r m | xorRM r m =>
    obtain ⟨a, ha⟩ := hreads (regAddr r) (by simp [readAddrs])
    obtain ⟨b, hb⟩ := hreads m (by simp [readAddrs])
    exact ⟨_, logicRM_of_reads _ ha hb⟩
  | addMI m n4 | addcMI m n4 | subMI m n4 | subcMI m n4 =>
    obtain ⟨a, ha⟩ := hreads m (by simp [readAddrs])
    show ∃ t, readThen m s _ = .next t
    rw [readThen_of_read _ ha]
    exact arithCommit_completes _ (hacc m rfl)
  | orMI m n4 | andMI m n4 | xorMI m n4 =>
    obtain ⟨a, ha⟩ := hreads m (by simp [readAddrs])
    obtain ⟨t, -, ht⟩ := logicMI_of_read _ n4 ha
    exact ⟨_, ht⟩
  | skt m n =>
    obtain ⟨v, hv⟩ := hreads m (by simp [readAddrs])
    exact judge_completes hv fun ⟨hm, hn, ho⟩ => hcmp ⟨n, .inl (hm ▸ rfl), hn, ho⟩
  | skf m n =>
    obtain ⟨v, hv⟩ := hreads m (by simp [readAddrs])
    exact judge_completes hv fun ⟨hm, hn, ho⟩ => hcmp ⟨n, .inr (hm ▸ rfl), hn, ho⟩
  | ske m n4 | skne m n4 | skge m n4 | sklt m n4 =>
    obtain ⟨v, hv⟩ := hreads m (by simp [readAddrs])
    exact ⟨_, readThen_of_read _ hv⟩
  | rorc r =>
    obtain ⟨v, hv⟩ := hreads (regAddr r) (by simp [readAddrs])
    exact ⟨_, readThen_of_read _ hv⟩
  | ld r m =>
    obtain ⟨v, hv⟩ := hreads m (by simp [readAddrs])
    exact ⟨_, readThen_of_read _ hv⟩
  | st m r =>
    obtain ⟨v, hv⟩ := hreads (regAddr r) (by simp [readAddrs])
    obtain ⟨t, -, ht⟩ := thenAdvance_dmWrite v (hacc m rfl)
    exact ⟨_, (addressThen_of_accessible _ (hacc m rfl)).trans ((readThen_of_read _ hv).trans ht)⟩
  | mov m n4 => exact store_completes n4 (hacc m rfl)
  | br addr => exact ⟨_, if_pos hwf⟩
  | call addr => exact ⟨_, (if_pos hwf).trans (if_neg fun hd => hcall ⟨⟨addr, rfl⟩, hd⟩)⟩
  | ret => exact ⟨_, (returns s (depth_eq_one fun hd => hret ⟨.inl rfl, hd⟩)).1⟩
  | retsk => exact ⟨_, (returns s (depth_eq_one fun hd => hret ⟨.inr rfl, hd⟩)).2⟩
  | stop x | halt x => exact ⟨_, if_pos hwf⟩
  | nop => exact ⟨_, rfl⟩

theorem exec_of_ownFault {i : Instr} {s : State} (hwf : i.wf = true) (h : OwnFault i s) : ∃ f, exec i s = .fault f := by
  rcases h with ⟨⟨addr, rfl⟩, hd⟩ | ⟨rfl | rfl, hd⟩ | ⟨n, rfl | rfl, hn, ho⟩
  · exact ⟨_, execCall_of_full hwf hd⟩
  · exact ⟨_, execRet_of_empty hd⟩
  · exact ⟨_, execRetsk_of_empty hd⟩
  · exact ⟨_, judge_of_cmpTestFaults ⟨rfl, hn, ho⟩⟩
  · exact ⟨_, judge_of_cmpTestFaults ⟨rfl, hn, ho⟩⟩

/-- The situations in which an instruction stops (R222). -/
def Stops (i : Instr) (s : State) : Prop :=
  i.wf = false ∨
  (∃ m, operandAddr i = some m ∧ 0x10 ≤ m.toNat ∧ m.toNat ≤ 0x70 ∧ s.params.unmappedDm = .fault) ∨
  (s.params.undefinedRead = .fault ∧ ∃ a ∈ readAddrs i, unwritten s a = true) ∨ OwnFault i s

theorem accessible_of_not_unmapped {i : Instr} {s : State}
    (h : ¬ ∃ m, operandAddr i = some m ∧ 0x10 ≤ m.toNat ∧ m.toNat ≤ 0x70 ∧ s.params.unmappedDm = .fault) {m : DAddr}
    (hm : operandAddr i = some m) : accessible m s = true := by
  by_contra hn
  exact h ⟨m, hm, (not_accessible_iff m s).1 (by simpa using hn)⟩

theorem exec_of_stops {i : Instr} {s : State} (h : Stops i s) : ∃ f, exec i s = .fault f := by
  by_cases hwf : i.wf = false
  · exact ⟨_, exec_of_not_wf hwf⟩
  by_cases hmap : ∃ m, operandAddr i = some m ∧ 0x10 ≤ m.toNat ∧ m.toNat ≤ 0x70 ∧ s.params.unmappedDm = .fault
  · obtain ⟨m, hm, hrange⟩ := hmap
    exact ⟨_, exec_of_not_accessible hm ((not_accessible_iff m s).2 hrange)⟩
  rcases h with h | h | ⟨hp, a, ha, hu⟩ | hown
  · exact absurd h hwf
  · exact absurd h hmap
  · obtain ⟨b, hb⟩ := Option.isSome_iff_exists.1 (List.find?_isSome.2 ⟨a, ha, hu⟩)
    exact ⟨_, exec_of_unwritten hp hb fun m => accessible_of_not_unmapped hmap⟩
  · exact exec_of_ownFault (by simpa using hwf) hown

theorem exec_of_not_stops {i : Instr} {s : State} (h : ¬ Stops i s) : ∃ t, exec i s = .next t := by
  simp only [Stops, not_or] at h
  obtain ⟨hwf, hmap, hread, hown⟩ := h
  have hacc : ∀ m, operandAddr i = some m → accessible m s = true := fun m => accessible_of_not_unmapped hmap
  refine exec_completes (by simpa using hwf) hacc (fun a ha => ?_) hown
  refine dmRead_ok_of_accessible ?_ fun ⟨hp, hu⟩ => hread ⟨hp, a, ha, hu⟩
  rcases mem_readAddrs ha with ⟨r, rfl⟩ | hm
  · exact accessible_regAddr r s
  · exact hacc a hm

/-- Settles O31: an instruction faults in the situations of `Stops` and completes in all others, so that none is refused. -/
theorem noInstructionIsRefused : Obligations.NoInstructionIsRefused := by
  unfold Obligations.NoInstructionIsRefused
  intro i s
  by_cases h : Stops i s
  · obtain ⟨f, hf⟩ := exec_of_stops h
    exact ⟨fun r => by rw [hf]; exact nofun, fun _ => h, fun _ => ⟨f, hf⟩⟩
  · obtain ⟨t, ht⟩ := exec_of_not_stops h
    refine ⟨fun r => by rw [ht]; exact nofun, fun ⟨f, hf⟩ => ?_, fun hs => absurd hs h⟩
    rw [ht] at hf
    cases hf

end Sys2Proof.Proofs
end

section
/-! PROOF. Decimal numbers of any length, digit by digit through CY (spec/40_add_sub.md R130, R133). -/

namespace Sys2Proof.Proofs

open Sys2Proof.Machine Sys2Proof.Claims

/-! ## One digit -/

theorem decimalSum_digit : ∀ n ≤ 19,
    (decimalSum n).2.toNat + 10 * (decimalSum n).1.toNat = n ∧ (decimalSum n).2.toNat ≤ 9 := by decide

theorem decimalDiff_digit : ∀ d : Int, -10 ≤ d → d ≤ 9 →
    ((decimalDiff d).2.toNat : Int) = d + 10 * (decimalDiff d).1.toNat ∧ (decimalDiff d).2.toNat ≤ 9 := by decide

/-- Adding two digits and a carry gives a digit and a carry that counts ten. -/
theorem aluAdd_digit {a b : Nibble} (ha : a.toNat ≤ 9) (hb : b.toNat ≤ 9) (c : Bool) :
    (aluAdd true a b c).res.toNat + 10 * (aluAdd true a b c).cy.toNat = a.toNat + b.toNat + c.toNat ∧
    (aluAdd true a b c).res.toNat ≤ 9 := by
  rw [aluAdd_decimal]
  have := c.toNat_le
  exact decimalSum_digit _ (by omega)

/-- Subtracting a digit and a borrow gives a digit and a borrow that counts ten. -/
theorem aluSub_digit {a b : Nibble} (ha : a.toNat ≤ 9) (hb : b.toNat ≤ 9) (c : Bool) :
    (aluSub true a b c).res.toNat + b.toNat + c.toNat = a.toNat + 10 * (aluSub true a b c).cy.toNat ∧
    (aluSub true a b c).res.toNat ≤ 9 := by
  rw [aluSub_decimal]
  have := c.toNat_le
  obtain ⟨hsum, hdigit⟩ := decimalDiff_digit ((a.toNat : Int) - b.toNat - c.toNat) (by omega) (by omega)
  exact ⟨by dsimp only; omega, hdigit⟩

/-! ## Numbers -/

theorem addDigits_value (ds : List (Nibble × Nibble)) (c : Bool) (h : ∀ d ∈ ds, d.1.toNat ≤ 9 ∧ d.2.toNat ≤ 9) :
    valueOf 10 (addDigits true ds c).1 + (addDigits true ds c).2.toNat * 10 ^ ds.length =
      valueOf 10 (ds.map Prod.fst) + valueOf 10 (ds.map Prod.snd) + c.toNat ∧
    ∀ d ∈ (addDigits true ds c).1, d.toNat ≤ 9 := by
  induction ds generalizing c with
  | nil => simp [addDigits, valueOf]
  | cons d rest ih =>
    obtain ⟨a, b⟩ := d
    obtain ⟨⟨ha, hb⟩, hrest⟩ := List.forall_mem_cons.1 h
    obtain ⟨hsum, hdigit⟩ := aluAdd_digit (a := a) (b := b) ha hb c
    obtain ⟨hvalue, hdigits⟩ := ih (aluAdd true a b c).cy hrest
    refine ⟨?_, List.forall_mem_cons.2 ⟨hdigit, hdigits⟩⟩
    simp only [addDigits, valueOf, List.map_cons, List.length_cons, pow_succ, ← mul_assoc]
    omega

theorem subDigits_value (ds : List (Nibble × Nibble)) (c : Bool) (h : ∀ d ∈ ds, d.1.toNat ≤ 9 ∧ d.2.toNat ≤ 9) :
    valueOf 10 (subDigits true ds c).1 + valueOf 10 (ds.map Prod.snd) + c.toNat =
      valueOf 10 (ds.map Prod.fst) + (subDigits true ds c).2.toNat * 10 ^ ds.length ∧
    ∀ d ∈ (subDigits true ds c).1, d.toNat ≤ 9 := by
  induction ds generalizing c with
  | nil => simp [subDigits, valueOf]
  | cons d rest ih =>
    obtain ⟨a, b⟩ := d
    obtain ⟨⟨ha, hb⟩, hrest⟩ := List.forall_mem_cons.1 h
    obtain ⟨hdiff, hdigit⟩ := aluSub_digit (a := a) (b := b) ha hb c
    obtain ⟨hvalue, hdigits⟩ := ih (aluSub true a b c).cy hrest
    refine ⟨?_, List.forall_mem_cons.2 ⟨hdigit, hdigits⟩⟩
    simp only [subDigits, valueOf, List.map_cons, List.length_cons, pow_succ, ← mul_assoc]
    omega

/-- Settles O14, by induction on the digits from the least significant one. -/
theorem decimalChainsComputeDecimalNumbers : Obligations.DecimalChainsComputeDecimalNumbers := by
  unfold Obligations.DecimalChainsComputeDecimalNumbers
  intro ds c h
  obtain ⟨hadd, haddDigits⟩ := addDigits_value ds c h
  obtain ⟨hsub, hsubDigits⟩ := subDigits_value ds c h
  exact ⟨hadd, hsub, haddDigits, hsubDigits⟩

end Sys2Proof.Proofs
end
